-- ==== Sys2Proof/Word.lean ====
section
/-! DEFINITION. The word of the machine (spec/00_scope.md rule R13): 32 bits, read as a two's complement signed integer. -/

namespace Sys2Proof

/-- One word: every register of the unit and every memory word has this width (R13, `XLEN = 32`). -/
abbrev Word := BitVec 32

/-- One byte: used only for the rendering of console events (spec/42_io.md R144); no instruction sees a byte (R53). -/
abbrev Byte := BitVec 8

end Sys2Proof
end

