-- ==== Sys2Proof/Syntax.lean ====
section
/-! DEFINITION. The instructions (spec/30_encoding.md R85): one constructor of `Instr` per row of the opcode table. A format A
instruction carries its operand word whole (R83); a format N instruction carries nothing (R82). -/

namespace Sys2Proof

/-- R85: the 31 instructions, in the table's order; labels by R89. -/
inductive Instr where
  | loadValue (v : Word)
  | loadAddr (a : Word)
  | loadindAddr (a : Word)
  | loadidxX (a : Word)
  | loadidxY (a : Word)
  | loadSpx
  | storeAddr (a : Word)
  | get
  | put (p : Word)
  | addX
  | addY
  | subX
  | subY
  | copyToX
  | copyFromX
  | copyToY
  | copyFromY
  | copyToSp
  | copyFromSp
  | jump (a : Word)
  | jumpIfZero (a : Word)
  | jumpIfNonzero (a : Word)
  | call (a : Word)
  | ret
  | incX
  | decX
  | push
  | pop
  | int
  | iret
  | endRun
deriving DecidableEq, Repr

/-- R81: the two formats. -/
inductive Format where
  /-- One word, no operand. -/
  | n
  /-- Two words, the second the operand. -/
  | a
deriving DecidableEq, Repr

end Sys2Proof
end

