-- ==== Sys2Proof/Decode.lean ====
section
/-! DEFINITION. The decoder and the encoder (spec/30_encoding.md R80 to R91). The opcode is the whole first word; there are no
fields inside it (R80). Decoding is the same in both modes (R84). -/

namespace Sys2Proof

/-- R91: one row of the opcode table: a word `w` matches when `w &&& mask = pattern`. `build` makes the instruction of the row;
for a format N row it ignores its argument. -/
structure OpcodeRow where
  mask : Word
  pattern : Word
  format : Format
  build : Word → Instr

/-- R91: a format A row, whose instruction takes the operand word. -/
def rowA (number : Word) (build : Word → Instr) : OpcodeRow := ⟨0xFFFFFFFF, number, .a, build⟩

/-- R91: a format N row. -/
def rowN (number : Word) (i : Instr) : OpcodeRow := ⟨0xFFFFFFFF, number, .n, fun _ => i⟩

/-- R85 and R82: the 31 opcodes and their formats. -/
def opcodeTable : List OpcodeRow :=
  [ rowA 1 .loadValue, rowA 2 .loadAddr, rowA 3 .loadindAddr, rowA 4 .loadidxX, rowA 5 .loadidxY, rowN 6 .loadSpx,
    rowA 7 .storeAddr, rowN 8 .get, rowA 9 .put ] ++
  [ rowN 10 .addX, rowN 11 .addY, rowN 12 .subX, rowN 13 .subY, rowN 14 .copyToX, rowN 15 .copyFromX,
    rowN 16 .copyToY, rowN 17 .copyFromY, rowN 18 .copyToSp, rowN 19 .copyFromSp ] ++
  [ rowA 20 .jump, rowA 21 .jumpIfZero, rowA 22 .jumpIfNonzero, rowA 23 .call, rowN 24 .ret ] ++
  [ rowN 25 .incX, rowN 26 .decX, rowN 27 .push, rowN 28 .pop, rowN 29 .int, rowN 30 .iret, rowN 50 .endRun ]

/-- R91 and R105: compare the whole opcode word with the table. `none`: an illegal opcode word (R86). -/
def lookupOpcode (w : Word) : Option OpcodeRow := opcodeTable.find? fun r => w &&& r.mask == r.pattern

/-- What decoding a list of words answers: an instruction with the words after it, or a rejection by name. -/
inductive Decoded where
  | ok (i : Instr) (rest : List Word)
  /-- R86: the first word is none of the 31 opcodes; no operand is looked at. -/
  | illegalOpcode (w : Word)
  /-- A format A opcode with no word after it. -/
  | missingOperand
  /-- There is no word to decode. -/
  | noWord
deriving DecidableEq, Repr

/-- R84: the length of the instruction follows from the opcode word alone; R83: the operand is the second word, whole. -/
def decode : List Word → Decoded
  | [] => .noWord
  | w :: ws =>
    match lookupOpcode w with
    | none => .illegalOpcode w
    | some r =>
      match r.format, ws with
      | .n, ws => .ok (r.build 0) ws
      | .a, [] => .missingOperand
      | .a, v :: ws => .ok (r.build v) ws

/-- R85: the opcode word of each instruction. -/
def Instr.opcodeWord : Instr → Word
  | .loadValue _ => 1
  | .loadAddr _ => 2
  | .loadindAddr _ => 3
  | .loadidxX _ => 4
  | .loadidxY _ => 5
  | .loadSpx => 6
  | .storeAddr _ => 7
  | .get => 8
  | .put _ => 9
  | .addX => 10
  | .addY => 11
  | .subX => 12
  | .subY => 13
  | .copyToX => 14
  | .copyFromX => 15
  | .copyToY => 16
  | .copyFromY => 17
  | .copyToSp => 18
  | .copyFromSp => 19
  | .jump _ => 20
  | .jumpIfZero _ => 21
  | .jumpIfNonzero _ => 22
  | .call _ => 23
  | .ret => 24
  | .incX => 25
  | .decX => 26
  | .push => 27
  | .pop => 28
  | .int => 29
  | .iret => 30
  | .endRun => 50

/-- R82: the operand word of a format A instruction. -/
def Instr.operand? : Instr → Option Word
  | .loadValue v => some v
  | .loadAddr a => some a
  | .loadindAddr a => some a
  | .loadidxX a => some a
  | .loadidxY a => some a
  | .loadSpx => none
  | .storeAddr a => some a
  | .get => none
  | .put p => some p
  | .addX => none
  | .addY => none
  | .subX => none
  | .subY => none
  | .copyToX => none
  | .copyFromX => none
  | .copyToY => none
  | .copyFromY => none
  | .copyToSp => none
  | .copyFromSp => none
  | .jump a => some a
  | .jumpIfZero a => some a
  | .jumpIfNonzero a => some a
  | .call a => some a
  | .ret => none
  | .incX => none
  | .decX => none
  | .push => none
  | .pop => none
  | .int => none
  | .iret => none
  | .endRun => none

/-- R89: the words of an instruction: the opcode number, followed by the operand for format A. -/
def encode (i : Instr) : List Word := i.opcodeWord :: i.operand?.toList

/-- The instruction read from the bits `w`, `nbits` of them given and every bit above them 0: the first word is bits 31..0 and
the operand word bits 63..32 (log entry 10). -/
def decodeTableWord (nbits w : Nat) : Option Instr :=
  match decode [BitVec.ofNat 32 (w % 2 ^ nbits), BitVec.ofNat 32 (w % 2 ^ nbits / 2 ^ 32)] with
  | .ok i _ => some i
  | .illegalOpcode _ => none
  | .missingOperand => none
  | .noWord => none

end Sys2Proof
end

