-- ==== Sys2Proof/Config.lean ====
section
/-! DEFINITION. The constants the spec fixes (spec/00_scope.md R7 to R10) and the values it leaves open, each an opaque
constant with no body: no proof can see what it is. INTERVAL (R11) and IMAGE (R12) are inputs of a run and stand in State. -/

namespace Sys2Proof.Config

/-- R7: memory has the addresses `0..1999`. -/
abbrev memWords : Nat := 2000

/-- R8: reset value of the user stack pointer. -/
def uspReset : Word := 999

/-- R8: reset value of the system stack pointer. -/
def sspReset : Word := 1999

/-- R9: entry address of the timer handler. -/
def timerVector : Word := 1000

/-- R9: entry address of the syscall handler. -/
def syscallVector : Word := 1500

/-- R10: threshold of the access-control rule R71. -/
abbrev userLimit : Int := 1000

/-- R10: threshold of the fatal check of opcode 6 (R126). -/
abbrev stackBound : Int := 999

/-- R14: the success exit status. -/
def exitSuccessCode : Int := 0

/-- R142: the random source, a FREE VALUE. Draw number `n` of a run is `draw n + 1`, some integer in `1..100` and no other
law. Log entry 4. -/
opaque draw : Nat → Fin 100

/-- R14: the number behind the failure exit status, free (log entry 9); `exitFailureCode` is the status itself. -/
opaque exitFailureRaw : Int

/-- R14: `EXIT_FAILURE_CODE`, open but for being non-zero. -/
def exitFailureCode : Int := if exitFailureRaw = 0 then 1 else exitFailureRaw

/-- R144 and U9 of spec/93_implementation_defined.md: the wording of the access diagnostic before the address it names, free. Log
entry 9. -/
opaque diagnosticBefore : Word → List Byte

/-- R144, U9: the wording after the address, free. Log entry 9. -/
opaque diagnosticAfter : Word → List Byte

end Sys2Proof.Config
end

