-- ==== Sys2Proof/Machine/State.lean ====
section
/-! DEFINITION. The state of the machine (spec/10_state.md), the Memory Engine's status and memory (spec/20_memory.md), the traces
and the exit status; and the machine right after reset (R39, R240). -/

namespace Sys2Proof.Machine

/-- R27: the mode flag. -/
inductive Mode where
  | user
  | system
deriving DecidableEq, Repr

/-- R32: the five values of the sequencer state. -/
inductive Run where
  /-- Reset is released; waiting for MEM_READY. -/
  | waitReady
  /-- Executing cycles. -/
  | running
  /-- TERMINATE is sent; waiting for the Memory Engine to exit. -/
  | halting
  /-- Terminal, exit status success. -/
  | exited
  /-- Terminal, exit status failure. -/
  | faulted
deriving DecidableEq, Repr

/-- R202: the fatal causes; `none` stands for the 0 the record holds before any fault (R33). -/
inductive Cause where
  | none
  | stackBound
  | addressRange
  | illegalOpcode
  | illegalPort
  | illegalMode
deriving DecidableEq, Repr

/-- R33: the fault record `(cause, info)`. `info` is the exact integer R202 names: an address sum may lie outside the range of
a word (log entry 5). -/
structure FaultRecord where
  cause : Cause
  info : Int
deriving DecidableEq, Repr

/-- R59: the operation of a request on MREQ. -/
inductive ReqOp where
  | read
  | write
  | terminate
deriving DecidableEq, Repr

/-- R59: one message on MREQ; unused fields are 0. -/
structure Request where
  op : ReqOp
  addr : Word
  wdata : Word
deriving DecidableEq, Repr

/-- R143: the kinds of emission. -/
inductive EventKind where
  | outDec
  | outChr
  | diagViolation
deriving DecidableEq, Repr

/-- R143: one event of the emission trace. -/
structure Event where
  kind : EventKind
  value : Word
deriving DecidableEq, Repr

/-- R201, R194: the exit status of an ended run. -/
inductive ExitStatus where
  | success
  | failure
deriving DecidableEq, Repr

/-- The Memory Engine as the unit sees it (log entry 6). -/
inductive Engine where
  /-- R58: filling memory from IMAGE; MEM_READY is not raised yet. -/
  | populating
  /-- R58: MEM_READY is raised; requests are answered one at a time, in order. -/
  | serving
  /-- R57: it took TERMINATE and has exited; MEM_EXITED is true. -/
  | exited
deriving DecidableEq, Repr

/-- R65: which promise of its contract (R55 to R58) the Memory Engine breaks. Constant for a run (log entry 6). -/
inductive Lapse where
  /-- None: it obeys R55 to R58. -/
  | none
  /-- It never raises MEM_READY. -/
  | neverReady
  /-- It answers the first `after` requests of the run and no request after them. -/
  | neverAnswers (after : Nat)
  /-- It never exits after TERMINATE (R194, corner case (5)). -/
  | neverExits
deriving DecidableEq, Repr

/-- R50: the 2000 words, as pairs of address and word, addresses rising; an unlisted word is 0 (R12). A cell is a whole word, the
smallest unit there is (R50, R53; log entry 7). -/
abbrev Memory := List (Nat × Word)

/-- The whole state between cycles. -/
structure State where
  /-- R21: the program counter. -/
  pc : Word
  /-- R23: the accumulator. -/
  ac : Word
  /-- R24: general register X. -/
  x : Word
  /-- R25: general register Y. -/
  y : Word
  /-- R28: the user stack pointer. -/
  usp : Word
  /-- R28: the system stack pointer. -/
  ssp : Word
  /-- R27: the mode flag. -/
  mode : Mode
  /-- R31: the countdown. -/
  timer : Word
  /-- R32: the sequencer state. -/
  run : Run
  /-- R33: the fault record. -/
  fault : FaultRecord
  /-- R11: the timer's reload value, an input that is constant for a run. -/
  interval : Word
  /-- R50: memory, owned by the Memory Engine. -/
  mem : Memory
  /-- R57, R58: the Memory Engine's status. After a fatal fault it is left as it was when the fault was raised, and says nothing
  of the Memory Engine from then on: the spec does not give its fate (N19 of spec/91_not_in_source.md; DESIGN CHOICE, log entry 17). -/
  engine : Engine
  /-- R65: the promise the Memory Engine breaks, if any; an input that is constant for a run (log entry 6). -/
  lapse : Lapse
  /-- R37, R63: the request trace, oldest first. -/
  requests : List Request
  /-- R37, R143: the emission trace, oldest first. -/
  emissions : List Event
  /-- R37: the exit status; none while the run has not ended. -/
  exitStatus : Option ExitStatus
  /-- The model's own (log entry 4): how many values the random source has given. -/
  draws : Nat
deriving DecidableEq, Repr

/-- Why a step can stop. None of these is a fatal fault of the hardware: those are next states with `run = faulted` (R201; log
entry 1). No instruction's meaning answers with one; only `step` does. -/
inductive Fault where
  /-- Raised by `step` when the run has ended in EXITED: the unit never steps again (R32, R194). Safe: the hardware does nothing more. -/
  | runExited
  /-- Raised by `step` when the run has ended in FAULTED (R32, R201). Safe: the hardware does nothing more. -/
  | runFaulted
  /-- Raised by `step` in WAIT_READY when MEM_READY will never come: stuck (R65, R241). Safe: the hardware waits for ever. -/
  | memReadyNeverComes
  /-- Raised by `step` in RUNNING when the cycle sends a request that is never answered: stuck on that request, whichever of the cycle's
  it is (R65, R110). Safe: the hardware waits for ever. -/
  | memoryNeverAnswers
  /-- Raised by `step` in HALTING when the Memory Engine never exits: stuck (R65, R194). Safe: the hardware waits for ever. -/
  | memoryNeverExits
deriving DecidableEq, Repr

/-- Why the model can decline. -/
inductive Refusal where
  /-- Raised by `exec`'s arm of an instruction that has no meaning yet. Safe: nothing is said of it. -/
  | notModelled (mnemonic : String)
  /-- Raised by `step` in WAIT_READY when the host gave an INTERVAL below 1 (R11; U18 of spec/93_implementation_defined.md says to
  decline such a launch). Safe: the spec describes no run for it. -/
  | illegalInterval
deriving DecidableEq, Repr

/-- R39, R240: every piece of state when reset is released. INTERVAL and IMAGE are open; here they are 100 and the image no loader
has written (log entries 2 and 3); `State.launch` takes any. The Memory Engine obeys its contract (log entry 6). -/
def State.reset : State where
  pc := 0
  ac := 0
  x := 0
  y := 0
  usp := Config.uspReset
  ssp := Config.sspReset
  mode := .user
  timer := 100
  run := .waitReady
  fault := ⟨.none, 0⟩
  interval := 100
  mem := []
  engine := .populating
  lapse := .none
  requests := []
  emissions := []
  exitStatus := none
  draws := 0

end Sys2Proof.Machine
end

