-- ==== Sys2Proof/Machine/Ops.lean ====
section
/-! DEFINITION. The operations every instruction is written over: exact and wrapped arithmetic, memory, the fatal fault, the round
trips to the Memory Engine, the stack-pointer multiplexer, fetch, push and pop, emissions, draws, trap entry and return, halt. -/

namespace Sys2Proof.Machine

/-! ## Words and integers -/

/-- R16: the word congruent to `v` modulo `2^32`. -/
def wrap (v : Int) : Word := BitVec.ofInt 32 v

/-! ## Memory as data -/

/-- R55: the word at `a`: the listed one, else 0 (R12). -/
def Memory.read : Memory → Nat → Word
  | [], _ => 0#32
  | (b, w) :: m, a => if a = b then w else Memory.read m a

/-- Put the word `v` of address `a` in its place; a 0 is not listed. The list holds no cell of `a` yet. -/
def Memory.insert : Memory → Nat → Word → Memory
  | [], a, v => if v = 0#32 then [] else [(a, v)]
  | (b, w) :: m, a, v =>
    if v = 0#32 then (b, w) :: m
    else if a < b then (a, v) :: (b, w) :: m
    else (b, w) :: Memory.insert m a v

/-- R56: store `v` at `a`, in canonical form. -/
def Memory.write (m : Memory) (a : Nat) (v : Word) : Memory := Memory.insert (m.filter fun c => c.1 != a) a v

/-- The canonical form: addresses strictly rising and below 2000 (R50), no listed word equal to what an unlisted one reads as. -/
abbrev Memory.wf (m : Memory) : Prop :=
  m.Pairwise (fun c d => c.1 < d.1) ∧ ∀ c ∈ m, c.1 < Config.memWords ∧ c.2 ≠ 0#32

/-- R12: memory filled from an image, a total function on `0..1999`. -/
def Memory.ofImage (image : Nat → Word) : Memory :=
  (List.range Config.memWords).filterMap fun a => if image a = 0#32 then none else some (a, image a)

/-- R240 and R247: the machine when reset is released, for the INTERVAL and the IMAGE the host has fixed. -/
def State.launch (interval : Word) (image : Nat → Word) : State :=
  { State.reset with timer := interval, interval := interval, mem := Memory.ofImage image }

/-! ## The fatal fault -/

/-- R202: the code of a cause; 0 before any fault (R33). -/
def Cause.code : Cause → Nat
  | .none => 0
  | .stackBound => 1
  | .addressRange => 2
  | .illegalOpcode => 3
  | .illegalPort => 4
  | .illegalMode => 5

/-- R14: the number of an exit status. -/
def ExitStatus.code : ExitStatus → Int
  | .success => Config.exitSuccessCode
  | .failure => Config.exitFailureCode

/-- R201: `raise cause(info)`: the record, the terminal RUN and the exit status; everything done before stands. No TERMINATE is sent.
DESIGN CHOICE (log entry 17): the field `engine` is left as it was; the spec does not say what becomes of the Memory Engine after a
fatal fault (N19 of spec/91_not_in_source.md), and the field says nothing of it from here on. -/
def raise (cause : Cause) (info : Int) (s : State) : State :=
  { s with fault := ⟨cause, info⟩, run := .faulted, exitStatus := some .failure }

/-- What a piece of pseudocode answers: it is done with a value, or it has raised and nothing after it happens (R201). -/
inductive Ran (α : Type) where
  | done (v : α) (s : State)
  | raised (s : State)

/-- The next statement, in the order written (R17); none after a `raise` (R18). -/
def Ran.andThen {α β : Type} (r : Ran α) (k : α → State → Ran β) : Ran β :=
  match r with
  | .done v s => k v s
  | .raised s => .raised s

/-- The state an instruction's body leaves, raised or not: both are next states (R201; log entry 1). -/
def Ran.leaves (r : Ran Unit) : Host.Outcome State Fault Refusal :=
  match r with
  | .done _ s => .next s
  | .raised s => .next s

/-! ## The ports to the Memory Engine -/

/-- R59: the number of a request's operation on MREQ. -/
def ReqOp.code : ReqOp → Nat
  | .read => 0
  | .write => 1
  | .terminate => 2

/-- R59: `MREQ{READ, a, 0}`. -/
def Request.read (a : Int) : Request := ⟨.read, wrap a, 0⟩

/-- R59: `MREQ{WRITE, a, v}`. -/
def Request.write (a : Int) (v : Word) : Request := ⟨.write, wrap a, v⟩

/-- R59: `MREQ{TERMINATE, 0, 0}`. -/
def Request.terminate : Request := ⟨.terminate, 0, 0⟩

/-- R63: append one message to the request trace. -/
def send (r : Request) (s : State) : State := { s with requests := s.requests ++ [r] }

/-- R60: the address exists. -/
def inRange (a : Int) : Bool := decide (0 ≤ a ∧ a ≤ 1999)

/-- R61: `MemRead(a, 1)`: range check on the exact address, one READ, the word the Memory Engine answers (R55). Where it never answers,
`cycle` stops (R65, R110). -/
def memRead (a : Int) (s : State) : Ran Word :=
  if inRange a then .done (Memory.read s.mem a.toNat) (send (.read a) s)
  else .raised (raise .addressRange a s)

/-- R62: `MemWrite(a, 1, v)`: range check, one WRITE, the Memory Engine stores (R56) and acknowledges. Where it never does, `cycle`
stops (R65, R110). -/
def memWrite (a : Int) (v : Word) (s : State) : Ran Unit :=
  if inRange a then .done () { send (.write a v) s with mem := Memory.write s.mem a.toNat v }
  else .raised (raise .addressRange a s)

/-! ## The stack-pointer multiplexer -/

/-- R28: the active stack pointer. -/
def State.sp (s : State) : Word :=
  match s.mode with
  | .user => s.usp
  | .system => s.ssp

/-- R28: write the active stack pointer; the other is unchanged. -/
def State.setSp (s : State) (v : Word) : State :=
  match s.mode with
  | .user => { s with usp := v }
  | .system => { s with ssp := v }

/-! ## Fetch, push, pop -/

/-- R104: `FetchWord()`. -/
def fetchWord (s : State) : Ran Word :=
  (memRead s.pc.toInt s).andThen fun w t => .done w { t with pc := wrap (t.pc.toInt + 1) }

/-- R180: `Push(v)`: the range check comes before the pointer moves; then the write at the new pointer. -/
def pushWord (v : Word) (s : State) : Ran Unit :=
  if inRange (s.sp.toInt - 1) then memWrite (s.sp.toInt - 1) v (s.setSp (wrap (s.sp.toInt - 1)))
  else .raised (raise .addressRange (s.sp.toInt - 1) s)

/-- R181: `Pop()`: the read comes before the pointer moves. -/
def popWord (s : State) : Ran Word :=
  (memRead s.sp.toInt s).andThen fun w t => .done w (t.setSp (wrap (t.sp.toInt + 1)))

/-! ## Emissions and draws -/

/-- R143: append one event to the emission trace. -/
def emit (k : EventKind) (v : Word) (s : State) : State := { s with emissions := s.emissions ++ [⟨k, v⟩] }

/-- R71: `CheckMemAccess(a)`: the value of the active stack pointer is looked at, not MODE. -/
def checkMemAccess (a : Word) (s : State) : State :=
  if s.sp.toInt < Config.userLimit ∧ a.toInt ≥ Config.userLimit then emit .diagViolation a s else s

/-- R142: the value draw number `n` gives, in `1..100`. -/
def drawValue (n : Nat) : Word := BitVec.ofNat 32 ((Config.draw n).val + 1)

/-- R140, R142: `Draw(1, 100)`: take the next value of the random source. -/
def draw (s : State) : Word × State := (drawValue s.draws, { s with draws := s.draws + 1 })

/-! ## Traps -/

/-- R224: `TrapEntry(vector)`: SYSTEM first, so that both pushes go through SSP; PC, then USP; then the fixed entry address. -/
def trapEntry (vector : Word) (s : State) : Ran Unit :=
  (pushWord s.pc { s with mode := .system }).andThen fun _ t =>
    (pushWord t.usp t).andThen fun _ u => .done () { u with pc := vector }

/-- R192, R226: the return: USP, then PC, popped through SSP; MODE last. The caller has checked the mode. -/
def trapReturn (s : State) : Ran Unit :=
  (popWord s).andThen fun u t =>
    (popWord { t with usp := u }).andThen fun p v => .done () { v with pc := p, mode := .user }

/-! ## Start and halt -/

/-- R65: the first request of the run, numbered from 0 in the order of the request trace, that the Memory Engine does not answer; none
where it answers all. One that is not serving answers none: no run has such a Memory Engine in RUNNING (log entry 15). -/
def State.firstUnanswered (s : State) : Option Nat :=
  match s.engine with
  | .populating => some 0
  | .exited => some 0
  | .serving =>
    match s.lapse with
    | .none => none
    | .neverReady => none
    | .neverAnswers after => some after
    | .neverExits => none

/-- R57, R65: after TERMINATE, MEM_EXITED comes true. -/
def Lapse.exits : Lapse → Bool
  | .none => true
  | .neverReady => true
  | .neverAnswers _ => true
  | .neverExits => false

/-- R57 and R194: the wait for MEM_EXITED: a Memory Engine that obeys R57 exits, and the run ends with success; with one that never
exits the unit stays in HALTING (R65). That the wait takes no step is DESIGN CHOICE, log entry 6. -/
def awaitExited (s : State) : State :=
  if s.lapse.exits then { s with engine := .exited, run := .exited, exitStatus := some .success } else s

/-- R194: `Halt()`. -/
def halt (s : State) : State := awaitExited (send .terminate { s with run := .halting })

end Sys2Proof.Machine
end

