-- ==== Sys2Proof/Machine/Flags.lean ====
section
/-! DEFINITION. Arithmetic results and tests. The unit has no flags (spec/10_state.md R34): an arithmetic instruction sets nothing
but its destination, and a conditional jump tests the value of AC itself. -/

namespace Sys2Proof.Machine

/-- R150: addition, `wrap` of the exact sum; overflow is silent. -/
def addWords (a b : Word) : Word := wrap (a.toInt + b.toInt)

/-- R150: subtraction, `wrap` of the exact difference. -/
def subWords (a b : Word) : Word := wrap (a.toInt - b.toInt)

/-- R34, R172: the test `AC = 0`. -/
def acIsZero (s : State) : Bool := decide (s.ac.toInt = 0)

end Sys2Proof.Machine
end

