-- ==== Sys2Proof/Machine/AluCopy.lean ====
section
/-! DEFINITION. Arithmetic, register copies, increment and decrement, opcodes 10 to 19, 25 and 26 (spec/43_alu_copy.md). -/

namespace Sys2Proof.Machine

/-- R151, opcode 10. -/
def execAddX (s : State) : Host.Outcome State Fault Refusal := .next { s with ac := addWords s.ac s.x }

/-- R152, opcode 11. -/
def execAddY (s : State) : Host.Outcome State Fault Refusal := .next { s with ac := addWords s.ac s.y }

/-- R153, opcode 12. -/
def execSubX (s : State) : Host.Outcome State Fault Refusal := .next { s with ac := subWords s.ac s.x }

/-- R154, opcode 13. -/
def execSubY (s : State) : Host.Outcome State Fault Refusal := .next { s with ac := subWords s.ac s.y }

/-- R155, opcode 14 (the direction is the spec's, from general knowledge: log entry 11). -/
def execCopyToX (s : State) : Host.Outcome State Fault Refusal := .next { s with x := s.ac }

/-- R156, opcode 15 (log entry 11). -/
def execCopyFromX (s : State) : Host.Outcome State Fault Refusal := .next { s with ac := s.x }

/-- R157, opcode 16 (log entry 11). -/
def execCopyToY (s : State) : Host.Outcome State Fault Refusal := .next { s with y := s.ac }

/-- R158, opcode 17 (log entry 11). -/
def execCopyFromY (s : State) : Host.Outcome State Fault Refusal := .next { s with ac := s.y }

/-- R159, opcode 18: any word is accepted. -/
def execCopyToSp (s : State) : Host.Outcome State Fault Refusal := .next (s.setSp s.ac)

/-- R160, opcode 19. -/
def execCopyFromSp (s : State) : Host.Outcome State Fault Refusal := .next { s with ac := s.sp }

/-- R161, opcode 25. -/
def execIncX (s : State) : Host.Outcome State Fault Refusal := .next { s with x := addWords s.x 1 }

/-- R162, opcode 26. -/
def execDecX (s : State) : Host.Outcome State Fault Refusal := .next { s with x := subWords s.x 1 }

end Sys2Proof.Machine
end

