-- ==== Sys2Proof/Machine/Control.lean ====
section
/-! DEFINITION. Control transfer, opcodes 20 to 24 (spec/44_control.md). A transfer does not check its target (R170). -/

namespace Sys2Proof.Machine

/-- R171, opcode 20. -/
def execJump (a : Word) (s : State) : Host.Outcome State Fault Refusal := .next { s with pc := a }

/-- R172, opcode 21. -/
def execJumpIfZero (a : Word) (s : State) : Host.Outcome State Fault Refusal :=
  if acIsZero s then .next { s with pc := a } else .next s

/-- R173, opcode 22. -/
def execJumpIfNonzero (a : Word) (s : State) : Host.Outcome State Fault Refusal :=
  if acIsZero s then .next s else .next { s with pc := a }

/-- R174, opcode 23: PC is past the operand when it is pushed (R21). -/
def execCall (a : Word) (s : State) : Host.Outcome State Fault Refusal :=
  ((pushWord s.pc s).andThen fun _ t => .done () { t with pc := a }).leaves

/-- R175, opcode 24. -/
def execRet (s : State) : Host.Outcome State Fault Refusal :=
  ((popWord s).andThen fun v t => .done () { t with pc := v }).leaves

end Sys2Proof.Machine
end

