-- ==== Sys2Proof/Machine/Io.lean ====
section
/-! DEFINITION. Random input and console output, opcodes 8 and 9 (spec/42_io.md). -/

namespace Sys2Proof.Machine

/-- R140, opcode 8: AC takes a value of the random source, free in `1..100` (log entry 4). -/
def execGet (s : State) : Host.Outcome State Fault Refusal := .next { (draw s).2 with ac := (draw s).1 }

/-- R141, opcode 9: ports 1 and 2; any other port is fatal (D5). -/
def execPut (p : Word) (s : State) : Host.Outcome State Fault Refusal :=
  if p.toInt = 1 then .next (emit .outDec s.ac s)
  else if p.toInt = 2 then .next (emit .outChr s.ac s)
  else .next (raise .illegalPort p.toInt s)

end Sys2Proof.Machine
end

