-- ==== Sys2Proof/Machine/Operands.lean ====
section
/-! DEFINITION. The addressing modes (spec/41_loads_store.md R120): exact effective addresses, never wrapped (R16), and the word
each mode reads. -/

namespace Sys2Proof.Machine

/-- R83: the operand word as the address of the data word. -/
def directAddr (a : Word) : Int := a.toInt

/-- R124: base plus X. -/
def indexedXAddr (a : Word) (s : State) : Int := a.toInt + s.x.toInt

/-- R125: base plus Y. -/
def indexedYAddr (a : Word) (s : State) : Int := a.toInt + s.y.toInt

/-- R126: active stack pointer plus X. -/
def stackAddr (s : State) : Int := s.sp.toInt + s.x.toInt

/-- R122 (the read), R127: direct. -/
def readDirect (a : Word) (s : State) : Ran Word := memRead (directAddr a) s

/-- R123: memory indirect, two reads in order. -/
def readIndirect (a : Word) (s : State) : Ran Word := (readDirect a s).andThen fun p t => readDirect p t

/-- R124. -/
def readIndexedX (a : Word) (s : State) : Ran Word := memRead (indexedXAddr a s) s

/-- R125. -/
def readIndexedY (a : Word) (s : State) : Ran Word := memRead (indexedYAddr a s) s

/-- R126: the stack bound is tested before the range (D25). -/
def readStack (s : State) : Ran Word :=
  if stackAddr s ≥ Config.stackBound then .raised (raise .stackBound (stackAddr s) s) else memRead (stackAddr s) s

end Sys2Proof.Machine
end

