-- ==== Sys2Proof/Machine/LoadsStore.lean ====
section
/-! DEFINITION. Loads and the store, opcodes 1 to 7 (spec/41_loads_store.md). The operand word has been fetched and PC points past
the instruction (R107). -/

namespace Sys2Proof.Machine

/-- R120: a load replaces all of AC. -/
def setAc (v : Word) (s : State) : Ran Unit := .done () { s with ac := v }

/-- R121, opcode 1. -/
def execLoadValue (v : Word) (s : State) : Host.Outcome State Fault Refusal := (setAc v s).leaves

/-- R122, opcode 2: the access check first (D24), then the read. -/
def execLoadAddr (a : Word) (s : State) : Host.Outcome State Fault Refusal :=
  ((readDirect a (checkMemAccess a s)).andThen setAc).leaves

/-- R123, opcode 3. -/
def execLoadindAddr (a : Word) (s : State) : Host.Outcome State Fault Refusal :=
  ((readIndirect a s).andThen setAc).leaves

/-- R124, opcode 4. -/
def execLoadidxX (a : Word) (s : State) : Host.Outcome State Fault Refusal :=
  ((readIndexedX a s).andThen setAc).leaves

/-- R125, opcode 5. -/
def execLoadidxY (a : Word) (s : State) : Host.Outcome State Fault Refusal :=
  ((readIndexedY a s).andThen setAc).leaves

/-- R126, opcode 6. -/
def execLoadSpx (s : State) : Host.Outcome State Fault Refusal := ((readStack s).andThen setAc).leaves

/-- R127, opcode 7. -/
def execStoreAddr (a : Word) (s : State) : Host.Outcome State Fault Refusal := (memWrite (directAddr a) s.ac s).leaves

end Sys2Proof.Machine
end

