-- ==== Sys2Proof/Machine/Stack.lean ====
section
/-! DEFINITION. The stack instructions, opcodes 27 and 28 (spec/45_stack.md). -/

namespace Sys2Proof.Machine

/-- R182, opcode 27. -/
def execPush (s : State) : Host.Outcome State Fault Refusal := (pushWord s.ac s).leaves

/-- R183, opcode 28. -/
def execPop (s : State) : Host.Outcome State Fault Refusal :=
  ((popWord s).andThen fun v t => .done () { t with ac := v }).leaves

end Sys2Proof.Machine
end

