-- ==== Sys2Proof/Machine/System.lean ====
section
/-! DEFINITION. System instructions, opcodes 29, 30 and 50 (spec/46_system.md). -/

namespace Sys2Proof.Machine

/-- R190, opcode 29: fatal in system mode (D10), else the trap entry at 1500. -/
def execInt (s : State) : Host.Outcome State Fault Refusal :=
  match s.mode with
  | .system => .next (raise .illegalMode 29 s)
  | .user => (trapEntry Config.syscallVector s).leaves

/-- R192, opcode 30: fatal in user mode (D11), else the return. -/
def execIret (s : State) : Host.Outcome State Fault Refusal :=
  match s.mode with
  | .user => .next (raise .illegalMode 30 s)
  | .system => (trapReturn s).leaves

/-- R194, opcode 50. -/
def execEndRun (s : State) : Host.Outcome State Fault Refusal := .next (halt s)

end Sys2Proof.Machine
end

