-- ==== Sys2Proof/Machine/Dispatch.lean ====
section
/-! DEFINITION. The dispatcher's table of meanings (spec/40_cycle_and_dispatch.md R105), one arm per instruction, the same in both
modes. -/

namespace Sys2Proof.Machine

def exec (i : Instr) (s : State) : Host.Outcome State Fault Refusal :=
  match i with
  | .loadValue v => Sys2Proof.Machine.execLoadValue v s
  | .loadAddr a => Sys2Proof.Machine.execLoadAddr a s
  | .loadindAddr a => Sys2Proof.Machine.execLoadindAddr a s
  | .loadidxX a => Sys2Proof.Machine.execLoadidxX a s
  | .loadidxY a => Sys2Proof.Machine.execLoadidxY a s
  | .loadSpx => Sys2Proof.Machine.execLoadSpx s
  | .storeAddr a => Sys2Proof.Machine.execStoreAddr a s
  | .get => Sys2Proof.Machine.execGet s
  | .put p => Sys2Proof.Machine.execPut p s
  | .addX => Sys2Proof.Machine.execAddX s
  | .addY => Sys2Proof.Machine.execAddY s
  | .subX => Sys2Proof.Machine.execSubX s
  | .subY => Sys2Proof.Machine.execSubY s
  | .copyToX => Sys2Proof.Machine.execCopyToX s
  | .copyFromX => Sys2Proof.Machine.execCopyFromX s
  | .copyToY => Sys2Proof.Machine.execCopyToY s
  | .copyFromY => Sys2Proof.Machine.execCopyFromY s
  | .copyToSp => Sys2Proof.Machine.execCopyToSp s
  | .copyFromSp => Sys2Proof.Machine.execCopyFromSp s
  | .jump a => Sys2Proof.Machine.execJump a s
  | .jumpIfZero a => Sys2Proof.Machine.execJumpIfZero a s
  | .jumpIfNonzero a => Sys2Proof.Machine.execJumpIfNonzero a s
  | .call a => Sys2Proof.Machine.execCall a s
  | .ret => Sys2Proof.Machine.execRet s
  | .incX => Sys2Proof.Machine.execIncX s
  | .decX => Sys2Proof.Machine.execDecX s
  | .push => Sys2Proof.Machine.execPush s
  | .pop => Sys2Proof.Machine.execPop s
  | .int => Sys2Proof.Machine.execInt s
  | .iret => Sys2Proof.Machine.execIret s
  | .endRun => Sys2Proof.Machine.execEndRun s

end Sys2Proof.Machine
end

