-- ==== Sys2Proof/Machine/Cycle.lean ====
section
/-! DEFINITION. The cycle (spec/40_cycle_and_dispatch.md R100) and the waits of the sequencer (spec/70_reset_and_hazards.md R241,
R242; spec/46_system.md R194). The latches IR and OPERAND (R36) are the values `ir` and `operand` below (log entry 8). -/

namespace Sys2Proof.Machine

/-- R101: the tick, in both modes. -/
def tick (s : State) : State := { s with timer := wrap (s.timer.toInt - 1) }

/-- R102: the timer interrupt is due: the countdown has reached zero and the flag MODE says user. -/
def timerDue (s : State) : Bool := decide (s.timer.toInt = 0 ∧ s.mode = .user)

/-- R102: the preemption check. An expiry in system mode does nothing here and is lost (R221). -/
def preempt (s : State) : Ran Unit :=
  if timerDue s then trapEntry Config.timerVector s else .done () s

/-- R104, R105, R107: fetch the opcode word, look it up, fetch the operand of a format A opcode. -/
def fetchInstr (s : State) : Ran Instr :=
  (fetchWord s).andThen fun ir t =>
    match lookupOpcode ir with
    | none => .raised (raise .illegalOpcode ir.toInt t)
    | some r =>
      match r.format with
      | .n => .done (r.build 0) t
      | .a => (fetchWord t).andThen fun operand u => .done (r.build operand) u

/-- R106: the last action of a cycle that completes; a cycle that raised or halted has left RUNNING and does not reload. -/
def reload (s : State) : State :=
  if s.run = .running ∧ s.timer.toInt = 0 then { s with timer := s.interval } else s

/-- R105, R106: execute, then reload. -/
def execAndReload (i : Instr) (s : State) : Host.Outcome State Fault Refusal :=
  match exec i s with
  | .next t => .next (reload t)
  | .fault f => .fault f
  | .refused r => .refused r

/-- R100: the cycle, from the tick on. -/
def runCycle (s : State) : Host.Outcome State Fault Refusal :=
  match (preempt (tick s)).andThen fun _ t => fetchInstr t with
  | .raised t => .next t
  | .done i t => execAndReload i t

/-- R65, R110: of the READs and WRITEs sent on the way from `s` to `t`, one is never answered. TERMINATE asks for no answer (R57). -/
def blocked (s t : State) : Bool :=
  match s.firstUnanswered with
  | none => false
  | some n => (t.requests.drop (max n s.requests.length)).any fun r => decide (r.op ≠ .terminate)

/-- R100 and R65: a cycle. What it sends up to a request that is never answered does not depend on that answer, so the cycle is run
with every request answered, and where one of those it sent is not, the unit is stuck on it and nothing after it happens. A cycle that
sends no such request, because a range check raises first (R60), is not stuck. -/
def cycle (s : State) : Host.Outcome State Fault Refusal :=
  match runCycle s with
  | .next t => if blocked s t then .fault .memoryNeverAnswers else .next t
  | .fault f => .fault f
  | .refused r => .refused r

/-- R242: MEM_READY is raised: the unit goes to RUNNING. A launch with INTERVAL below 1 is declined (U18; log entry 14). -/
def start (s : State) : Host.Outcome State Fault Refusal :=
  if s.interval.toInt < 1 then .refused .illegalInterval else .next { s with run := .running }

/-- R241, R242: WAIT_READY. The Memory Engine raises MEM_READY once memory holds IMAGE, or never does (R65); the unit changes no state
while it waits. -/
def awaitReady (s : State) : Host.Outcome State Fault Refusal :=
  match s.engine with
  | .populating => if s.lapse = .neverReady then .fault .memReadyNeverComes else .next { s with engine := .serving }
  | .serving => start s
  | .exited => .fault .memReadyNeverComes

/-- R194, R65: HALTING. -/
def awaitHalt (s : State) : Host.Outcome State Fault Refusal :=
  if s.lapse.exits then .next (awaitExited s) else .fault .memoryNeverExits

/-- The address the next cycle fetches its opcode from: 1000 when that cycle takes the timer interrupt (R102), else PC. -/
def nextFetch (s : State) : Int := if timerDue (tick s) then Config.timerVector.toInt else s.pc.toInt

/-- Store two words where the next cycle fetches; where an instruction of two words would not fit in memory, PC is moved to 0. -/
def placeInstr (w0 w1 : Word) (s : State) : State :=
  if 0 ≤ nextFetch s ∧ nextFetch s ≤ 1998 then
    { s with mem := Memory.write (Memory.write s.mem (nextFetch s).toNat w0) ((nextFetch s).toNat + 1) w1 }
  else { s with pc := 0, mem := Memory.write (Memory.write s.mem 0 w0) 1 w1 }

end Sys2Proof.Machine
end

