-- ==== Sys2Proof/Machine/Step.lean ====
section
/-! DEFINITION. One step of the machine: one cycle while RUN = RUNNING (spec/40_cycle_and_dispatch.md R100, R111), one move of the
start or of the halt handshake, and the stop of an ended run (spec/10_state.md R32). -/

namespace Sys2Proof.Machine

/-- R32, R100: the step by the sequencer's state. -/
def step (s : State) : Host.Outcome State Fault Refusal :=
  match s.run with
  | .waitReady => awaitReady s
  | .running => cycle s
  | .halting => awaitHalt s
  | .exited => .fault .runExited
  | .faulted => .fault .runFaulted

/-- The state in which the very next step runs the instruction whose bits are `w` (log entry 12): RUN is RUNNING, the Memory Engine
serves and obeys its contract, and the instruction's words lie where the next cycle fetches. -/
def State.withFetchWord (s : State) (nbits w : Nat) : State :=
  placeInstr (BitVec.ofNat 32 (w % 2 ^ nbits)) (BitVec.ofNat 32 (w % 2 ^ nbits / 2 ^ 32))
    { s with run := .running, engine := .serving, lapse := .none }

end Sys2Proof.Machine
end

