-- ==== Sys2Proof/Machine/Console.lean ====
section
/-! DEFINITION. How the host side of the console port renders an event (spec/42_io.md R144). Nothing in the unit reads it: traces of
events are what a run gives (R143). -/

namespace Sys2Proof.Machine

/-- The decimal digits of `n`, most significant first, as ASCII codes; `fuel` bounds how many. -/
def decDigits : Nat → Nat → List Byte
  | 0, _ => []
  | fuel + 1, n =>
    (if n < 10 then [] else decDigits fuel (n / 10)) ++ [BitVec.ofNat 8 (48 + n % 10)]

/-- R144: the shortest decimal numeral, `-` (code 45) before a negative one; a word has at most ten digits. -/
def decNumeral (v : Int) : List Byte := (if v < 0 then [45] else []) ++ decDigits 10 v.natAbs

/-- R144, D18: "a violation diagnostic naming the offending address": the address as a numeral (that it is named in decimal is DESIGN
CHOICE, log entry 9) within wording that is free. -/
def diagnosticText (a : Word) : List Byte :=
  Config.diagnosticBefore a ++ decNumeral a.toInt ++ Config.diagnosticAfter a

/-- R144: the bytes an event appears as: a numeral, the byte `v mod 256`, or the diagnostic's text. -/
def renderEvent (e : Event) : List Byte :=
  match e.kind with
  | .outDec => decNumeral e.value.toInt
  | .outChr => [BitVec.ofInt 8 (e.value.toInt % 256)]
  | .diagViolation => diagnosticText e.value

end Sys2Proof.Machine
end

