-- ==== Sys2Proof/Safety.lean ====
section
/-! DEFINITION. What counts as a good state and a safe run, and the tables of the spec that claims compare the machine with. -/

namespace Sys2Proof.Safety

open Sys2Proof.Machine

/-! ## Invariants -/

/-- R31: between cycles `1 <= TIMER <= INTERVAL`; at the end of a run TIMER may have been left at 0 (R106); before the first
cycle it is INTERVAL (R39). -/
def TimerOk (s : State) : Prop :=
  match s.run with
  | .waitReady => s.timer = s.interval
  | .running => 1 ≤ s.timer.toInt ∧ s.timer.toInt ≤ s.interval.toInt
  | .halting => 0 ≤ s.timer.toInt ∧ s.timer.toInt ≤ s.interval.toInt
  | .exited => 0 ≤ s.timer.toInt ∧ s.timer.toInt ≤ s.interval.toInt
  | .faulted => 0 ≤ s.timer.toInt ∧ s.timer.toInt ≤ s.interval.toInt

/-- R32, R33, R37: the exit status and the fault record agree with RUN. R58, R242, R57: in RUNNING and HALTING the Memory Engine serves,
in EXITED it has exited; nothing is said of it in FAULTED (log entry 17). -/
def StatusOk (s : State) : Prop :=
  match s.run with
  | .waitReady => s.exitStatus = none ∧ s.fault = ⟨.none, 0⟩ ∧ s.engine ≠ .exited
  | .running => s.exitStatus = none ∧ s.fault = ⟨.none, 0⟩ ∧ s.engine = .serving
  | .halting => s.exitStatus = none ∧ s.fault = ⟨.none, 0⟩ ∧ s.engine = .serving
  | .exited => s.exitStatus = some .success ∧ s.fault = ⟨.none, 0⟩ ∧ s.engine = .exited
  | .faulted => s.exitStatus = some .failure ∧ s.fault.cause ≠ .none

/-- R60: a READ or a WRITE whose address exists; unused fields are 0 (R59). -/
def AccessOk (r : Request) : Prop :=
  (r.op = .read ∧ r.wdata = 0 ∨ r.op = .write) ∧ 0 ≤ r.addr.toInt ∧ r.addr.toInt ≤ 1999

/-- R63, R195: only READs and WRITEs of existing addresses, and one TERMINATE, the last message, once the unit has halted. -/
def TraceOk (s : State) : Prop :=
  match s.run with
  | .waitReady => s.requests = []
  | .running => ∀ r ∈ s.requests, AccessOk r
  | .halting => ∃ before, s.requests = before ++ [Request.terminate] ∧ ∀ r ∈ before, AccessOk r
  | .exited => ∃ before, s.requests = before ++ [Request.terminate] ∧ ∀ r ∈ before, AccessOk r
  | .faulted => ∀ r ∈ s.requests, AccessOk r

/-! ## The request trace against memory -/

/-- R66: the word at `a` after the requests, oldest first, when it held `w` before them: the latest write, else `w`. -/
def replay (a : Nat) : Word → List Request → Word
  | w, [] => w
  | w, r :: rs => replay a (if r.op = .write ∧ r.addr.toNat = a then r.wdata else w) rs

/-- R59, R65: between `s` and `t` a READ or a WRITE was sent whose number in the run, counted from 0, is `n` or more. -/
def SentFrom (n : Nat) (s t : State) : Prop :=
  ∃ k r, n ≤ k ∧ s.requests.length ≤ k ∧ t.requests[k]? = some r ∧ r.op ≠ .terminate

/-! ## The table of R109: the body requests of each instruction -/

/-- An access a body asks for: the exact address, and the word when it is a write. -/
structure Access where
  addr : Int
  store : Option Word

/-- R109, the third part of the request trace of a cycle: what each body asks for, in order. `s` is the state when the body starts. -/
def bodyAccesses (i : Instr) (s : State) : List Access :=
  match i with
  | .loadValue _ => []
  | .loadAddr a => [⟨a.toInt, none⟩]
  | .loadindAddr a => [⟨a.toInt, none⟩, ⟨(Memory.read s.mem a.toInt.toNat).toInt, none⟩]
  | .loadidxX a => [⟨a.toInt + s.x.toInt, none⟩]
  | .loadidxY a => [⟨a.toInt + s.y.toInt, none⟩]
  | .loadSpx => if s.sp.toInt + s.x.toInt < 999 then [⟨s.sp.toInt + s.x.toInt, none⟩] else []
  | .storeAddr a => [⟨a.toInt, some s.ac⟩]
  | .get => []
  | .put _ => []
  | .addX => []
  | .addY => []
  | .subX => []
  | .subY => []
  | .copyToX => []
  | .copyFromX => []
  | .copyToY => []
  | .copyFromY => []
  | .copyToSp => []
  | .copyFromSp => []
  | .jump _ => []
  | .jumpIfZero _ => []
  | .jumpIfNonzero _ => []
  | .call _ => [⟨s.sp.toInt - 1, some s.pc⟩]
  | .ret => [⟨s.sp.toInt, none⟩]
  | .incX => []
  | .decX => []
  | .push => [⟨s.sp.toInt - 1, some s.ac⟩]
  | .pop => [⟨s.sp.toInt, none⟩]
  | .int => if s.mode = .user then [⟨s.ssp.toInt - 1, some s.pc⟩, ⟨s.ssp.toInt - 2, some s.usp⟩] else []
  | .iret => if s.mode = .system then [⟨s.ssp.toInt, none⟩, ⟨s.ssp.toInt + 1, none⟩] else []
  | .endRun => []

/-- R109: a request whose address fails the range check is not sent, and nothing after it is sent. -/
def sentRequests (l : List Access) : List Request :=
  (l.takeWhile fun c => 0 ≤ c.addr ∧ c.addr ≤ 1999).map fun c =>
    match c.store with
    | none => ⟨.read, BitVec.ofInt 32 c.addr, 0⟩
    | some v => ⟨.write, BitVec.ofInt 32 c.addr, v⟩

/-- R109: the messages a body sends; END's is the one TERMINATE (R63). -/
def bodyRequests (i : Instr) (s : State) : List Request :=
  sentRequests (bodyAccesses i s) ++ (if i = .endRun then [⟨.terminate, 0, 0⟩] else [])

/-- R109, the column of emissions: what each body emits. -/
def bodyEvents (i : Instr) (s : State) : List Event :=
  match i with
  | .loadAddr a => if s.sp.toInt < 1000 ∧ 1000 ≤ a.toInt then [⟨.diagViolation, a⟩] else []
  | .put p => if p = 1 then [⟨.outDec, s.ac⟩] else if p = 2 then [⟨.outChr, s.ac⟩] else []
  | _ => []

/-! ## Faults -/

/-- R202 and R206, column "raised by": the instructions whose body raises no fatal fault. -/
def neverFaults (i : Instr) : Bool :=
  match i with
  | .loadValue _ => true
  | .loadAddr _ => false
  | .loadindAddr _ => false
  | .loadidxX _ => false
  | .loadidxY _ => false
  | .loadSpx => false
  | .storeAddr _ => false
  | .get => true
  | .put _ => false
  | .addX => true
  | .addY => true
  | .subX => true
  | .subY => true
  | .copyToX => true
  | .copyFromX => true
  | .copyToY => true
  | .copyFromY => true
  | .copyToSp => true
  | .copyFromSp => true
  | .jump _ => true
  | .jumpIfZero _ => true
  | .jumpIfNonzero _ => true
  | .call _ => false
  | .ret => false
  | .incX => true
  | .decX => true
  | .push => false
  | .pop => false
  | .int => false
  | .iret => false
  | .endRun => true

/-! ## The timer interrupt -/

/-- R101, R102: the next cycle takes the timer interrupt: the tick takes TIMER to 0 and MODE is user. -/
def InterruptDue (s : State) : Prop := s.timer.toInt = 1 ∧ s.mode = .user

/-- R224: memory with the frame of a trap entry pushed. -/
def withFrame (s : State) : Memory :=
  Memory.write (Memory.write s.mem (s.ssp.toNat - 1) s.pc) (s.ssp.toNat - 2) s.usp

/-- R224, R109: the two WRITEs of a trap entry. -/
def frameRequests (s : State) : List Request := [⟨.write, s.ssp - 1, s.pc⟩, ⟨.write, s.ssp - 2, s.usp⟩]

/-! ## Console text -/

/-- The number that decimal digits, given as ASCII codes, most significant first, stand for. -/
def decValue (ds : List Byte) : Nat := ds.foldl (fun n d => 10 * n + (d.toNat - 48)) 0

/-! ## Frames -/

/-- R38: the data registers and stack pointers an instruction may write in mode `m`, beyond the fetch's PC advance. -/
inductive Reg where
  | ac
  | x
  | y
  | usp
  | ssp
deriving DecidableEq, Repr

/-- The value of a register. -/
def Reg.value (r : Reg) (s : State) : Word :=
  match r with
  | .ac => s.ac
  | .x => s.x
  | .y => s.y
  | .usp => s.usp
  | .ssp => s.ssp

/-- R28: the register SP stands for in mode `m`. -/
def activeReg (m : Mode) : Reg :=
  match m with
  | .user => .usp
  | .system => .ssp

/-- R38, column "writes". -/
def writtenRegs (i : Instr) (m : Mode) : List Reg :=
  match i with
  | .loadValue _ => [.ac]
  | .loadAddr _ => [.ac]
  | .loadindAddr _ => [.ac]
  | .loadidxX _ => [.ac]
  | .loadidxY _ => [.ac]
  | .loadSpx => [.ac]
  | .storeAddr _ => []
  | .get => [.ac]
  | .put _ => []
  | .addX => [.ac]
  | .addY => [.ac]
  | .subX => [.ac]
  | .subY => [.ac]
  | .copyToX => [.x]
  | .copyFromX => [.ac]
  | .copyToY => [.y]
  | .copyFromY => [.ac]
  | .copyToSp => [activeReg m]
  | .copyFromSp => [.ac]
  | .jump _ => []
  | .jumpIfZero _ => []
  | .jumpIfNonzero _ => []
  | .call _ => [activeReg m]
  | .ret => [activeReg m]
  | .incX => [.x]
  | .decX => [.x]
  | .push => [activeReg m]
  | .pop => [.ac, activeReg m]
  | .int => [.ssp]
  | .iret => [.usp, .ssp]
  | .endRun => []

end Sys2Proof.Safety
end

