-- ==== Sys2Proof/Certificates/Slice0/Obligations.lean ====
section
/-! DEFINITION. The statements for the provers, each about the spec's numbered rules. A fatal fault is a next state (R201; log entry 1),
so a clause that says where an instruction faults is an equation too; in the state it gives, the field `engine` is as before by the
model's choice and says nothing of the Memory Engine (log entry 17). Written out as records, not through the model's own operations,
wherever the spec gives the value. -/

open Sys2Proof Sys2Proof.Machine Sys2Proof.Safety

/-! ## Encoding -/

/-- R80, R82, R91: decoding what `encode` gives, followed by any words, gives the instruction back and leaves those words. -/
def Obligations.DecodeInvertsEncode : Prop :=
  ∀ (i : Instr) (rest : List Word), decode (encode i ++ rest) = .ok i rest

/-- R84, R91: the words an instruction was decoded from are the words it encodes to. -/
def Obligations.EncodeInvertsDecode : Prop :=
  ∀ (ws : List Word) (i : Instr) (rest : List Word), decode ws = .ok i rest → ws = encode i ++ rest

/-- R86: the illegal opcode words are exactly all values at most 0, 31 to 49, and 51 and above, whatever follows them. -/
def Obligations.IllegalOpcodeWords : Prop :=
  ∀ (w : Word) (ws : List Word),
    decode (w :: ws) = .illegalOpcode w ↔
      (w.toInt ≤ 0 ∨ (31 ≤ w.toInt ∧ w.toInt ≤ 49) ∨ 51 ≤ w.toInt)

/-- R85, R80: one instruction of every family, its words written out from the opcode map. -/
def Obligations.OpcodeMapWords : Prop :=
  decode [1, 5, 9, 1, 50] = .ok (.loadValue 5) [9, 1, 50] ∧ decode [9, 1, 50] = .ok (.put 1) [50] ∧
    decode [50] = .ok .endRun [] ∧ decode [7, 300] = .ok (.storeAddr 300) [] ∧ decode [12, 7] = .ok .subX [7] ∧
    decode [14] = .ok .copyToX [] ∧ decode [23, 100] = .ok (.call 100) [] ∧ decode [28] = .ok .pop [] ∧
    decode [29] = .ok .int [] ∧ decode [30] = .ok .iret []

/-! ## Reset, start, end of a run -/

/-- R39: every piece of state when reset is released, for every INTERVAL and every IMAGE. -/
def Obligations.ResetValues : Prop :=
  ∀ (interval : Word) (image : Nat → Word),
    let s := State.launch interval image
    s.usp = 999 ∧ s.ssp = 1999 ∧ s.mode = .user ∧ s.timer = interval ∧ s.pc = 0 ∧ s.ac = 0 ∧ s.x = 0 ∧ s.y = 0 ∧
      s.run = .waitReady ∧ s.fault = ⟨.none, 0⟩ ∧ s.fault.cause.code = 0 ∧ s.requests = [] ∧ s.emissions = [] ∧
      s.interval = interval ∧ ∀ a < 2000, Memory.read s.mem a = image a

/-- R241, R242, R65: from reset the unit waits, changing nothing of its own, until the Memory Engine is ready, and then runs, whatever
other promise the Memory Engine will break; with one that never raises MEM_READY it is stuck. That the wait takes one step is the model's
choice (log entry 6). -/
def Obligations.StartHandshake : Prop :=
  ∀ (interval : Word) (image : Nat → Word) (lapse : Lapse), 1 ≤ interval.toInt →
    let s := { State.launch interval image with lapse := lapse }
    (lapse ≠ .neverReady →
      step s = .next { s with engine := .serving } ∧
        step { s with engine := .serving } = .next { s with engine := .serving, run := .running }) ∧
    (lapse = .neverReady → step s = .fault .memReadyNeverComes)

/-- R32, R248: the transitions of RUN that a step makes. That a step takes a running unit past HALTING to EXITED, and ends in HALTING
only with a Memory Engine that never exits, is the model's choice of steps (log entry 6, DESIGN CHOICE), not the spec's: R32 has
RUNNING to HALTING to EXITED. -/
def Obligations.RunTransitions : Prop :=
  ∀ s t : State, step s = .next t →
    (s.run = .waitReady ∧ (t.run = .waitReady ∨ t.run = .running)) ∨
      (s.run = .running ∧
        (t.run = .running ∨ t.run = .faulted ∨ (t.run = .exited ∧ s.engine = .serving ∧ s.lapse ≠ .neverExits) ∨
          (t.run = .halting ∧ s.engine = .serving ∧ s.lapse = .neverExits))) ∨
      (s.run = .halting ∧ t.run = .exited ∧ s.lapse ≠ .neverExits)

/-- R248, R194: a step of a running unit ends the run, or leaves it in HALTING, only where the word it fetches is 50: the word at PC,
or the word at 1000 after the frame is pushed where the timer interrupt is due. TERMINATE is then the last message. -/
def Obligations.OnlyEndExits : Prop :=
  ∀ s t : State, s.run = .running → step s = .next t → t.run = .exited ∨ t.run = .halting →
    (¬InterruptDue s →
      0 ≤ s.pc.toInt ∧ s.pc.toInt ≤ 1999 ∧ Memory.read s.mem s.pc.toNat = 50 ∧
        t.requests = s.requests ++ [⟨.read, s.pc, 0⟩, ⟨.terminate, 0, 0⟩]) ∧
    (InterruptDue s →
      2 ≤ s.ssp.toInt ∧ s.ssp.toInt ≤ 2000 ∧ Memory.read (withFrame s) 1000 = 50 ∧
        t.requests = s.requests ++ frameRequests s ++ [⟨.read, 1000, 0⟩, ⟨.terminate, 0, 0⟩]) ∧
    (t.run = .exited → t.exitStatus = some .success) ∧ (t.run = .halting → t.exitStatus = s.exitStatus)

/-! ## The step -/

/-- R100, R104 to R107: where the words at PC are those of `i` and no timer interrupt is due, the step is `exec i`, after the tick, the
PC advance and the READs of the fetch, and before the reload. -/
def Obligations.StepRunsDecodedInstruction : Prop :=
  ∀ (s : State) (i : Instr), s.run = .running → s.firstUnanswered = none → ¬InterruptDue s →
    0 ≤ s.pc.toInt → s.pc.toInt + (encode i).length ≤ 2000 →
    (∀ k (h : k < (encode i).length), Memory.read s.mem (s.pc.toNat + k) = (encode i)[k]) →
    step s =
      match exec i { s with
        timer := s.timer - 1
        pc := s.pc + BitVec.ofNat 32 (encode i).length
        requests := s.requests ++
          (List.range (encode i).length).map fun k => ⟨.read, s.pc + BitVec.ofNat 32 k, 0⟩ } with
      | .next t => .next (if t.run = .running ∧ t.timer = 0 then { t with timer := t.interval } else t)
      | .fault f => .fault f
      | .refused r => .refused r

/-- R102, R224: in user mode the tick that reaches zero takes the timer interrupt: PC, then USP on the system stack, SYSTEM, and the
same cycle runs the instruction at 1000. Where a push fails the range check the step is the fault, in system mode, with the first push
done if it is the second that fails, and nothing is fetched; where it is the first, nothing is sent (R60), so the Memory Engine need not
answer. -/
def Obligations.StepTakesTimerInterrupt : Prop :=
  ∀ s : State, s.run = .running → InterruptDue s →
    (∀ i : Instr, s.firstUnanswered = none → 2 ≤ s.ssp.toInt → s.ssp.toInt ≤ 2000 →
      (∀ k (h : k < (encode i).length), Memory.read (withFrame s) (1000 + k) = (encode i)[k]) →
      step s =
        match exec i { s with
          timer := 0
          mode := .system
          ssp := s.ssp - 2
          mem := withFrame s
          pc := 1000 + BitVec.ofNat 32 (encode i).length
          requests := s.requests ++ frameRequests s ++
            (List.range (encode i).length).map fun k => ⟨.read, 1000 + BitVec.ofNat 32 k, 0⟩ } with
        | .next t => .next (if t.run = .running ∧ t.timer = 0 then { t with timer := t.interval } else t)
        | .fault f => .fault f
        | .refused r => .refused r) ∧
    (s.firstUnanswered = none → s.ssp.toInt = 1 →
      step s = .next { s with
        timer := 0, mode := .system, ssp := 0, mem := Memory.write s.mem 0 s.pc,
        requests := s.requests ++ [⟨.write, 0, s.pc⟩],
        fault := ⟨.addressRange, -1⟩, run := .faulted, exitStatus := some .failure }) ∧
    (s.ssp.toInt < 1 ∨ 2000 < s.ssp.toInt →
      step s = .next { s with
        timer := 0, mode := .system,
        fault := ⟨.addressRange, s.ssp.toInt - 1⟩, run := .faulted, exitStatus := some .failure })

/-- R104, R206, R54: a fetch outside memory is fatal, sends nothing and does not advance PC: the opcode's, also with a Memory Engine that
answers nothing (R60 comes before the wait of R61), and the operand's of an instruction at 1999. -/
def Obligations.FetchOutsideMemoryFaults : Prop :=
  ∀ s : State, s.run = .running → ¬InterruptDue s →
    (s.pc.toInt < 0 ∨ 1999 < s.pc.toInt →
      step s = .next { s with
        timer := s.timer - 1, fault := ⟨.addressRange, s.pc.toInt⟩, run := .faulted, exitStatus := some .failure }) ∧
    ∀ i v, s.firstUnanswered = none → s.pc = 1999 → encode i = [Memory.read s.mem 1999, v] →
      step s = .next { s with
        timer := s.timer - 1, pc := 2000, requests := s.requests ++ [⟨.read, 1999, 0⟩],
        fault := ⟨.addressRange, 2000⟩, run := .faulted, exitStatus := some .failure }

/-- R204, R106: the dispatcher raises IllegalOpcodeFault on a word that is none of 1 to 30 or 50, with PC advanced past it; a cycle that
fetches such a word, at PC or at 1000 after a timer entry, ends in FAULTED with TIMER ticked and not reloaded. -/
def Obligations.IllegalOpcodeFaults : Prop :=
  ∀ (s : State) (w : Word), ¬(1 ≤ w.toInt ∧ w.toInt ≤ 30) → w.toInt ≠ 50 →
    Cause.illegalOpcode.code = 3 ∧
    (0 ≤ s.pc.toInt → s.pc.toInt ≤ 1999 → Memory.read s.mem s.pc.toNat = w →
      fetchInstr s = .raised { s with
        pc := s.pc + 1, requests := s.requests ++ [⟨.read, s.pc, 0⟩],
        fault := ⟨.illegalOpcode, w.toInt⟩, run := .faulted, exitStatus := some .failure } ∧
      (s.run = .running → s.firstUnanswered = none → ¬InterruptDue s →
        step s = .next { s with
          timer := s.timer - 1, pc := s.pc + 1, requests := s.requests ++ [⟨.read, s.pc, 0⟩],
          fault := ⟨.illegalOpcode, w.toInt⟩, run := .faulted, exitStatus := some .failure })) ∧
    (s.run = .running → s.firstUnanswered = none → InterruptDue s → 2 ≤ s.ssp.toInt → s.ssp.toInt ≤ 2000 →
      Memory.read (withFrame s) 1000 = w →
      step s = .next { s with
        timer := 0, mode := .system, ssp := s.ssp - 2, mem := withFrame s, pc := 1001,
        requests := s.requests ++ frameRequests s ++ [⟨.read, 1000, 0⟩],
        fault := ⟨.illegalOpcode, w.toInt⟩, run := .faulted, exitStatus := some .failure })

/-- R101, R106: every cycle counts TIMER down by one, in both modes; one that completes with TIMER at zero reloads it; one that ends in
a fault or in END does not. -/
def Obligations.TimerOverACycle : Prop :=
  ∀ s t : State, s.run = .running → step s = .next t →
    t.timer = (if t.run = .running ∧ s.timer = 1 then s.interval else s.timer - 1) ∧ t.interval = s.interval

/-- R108 (the spec's own derivation): `k` cycles after TIMER held INTERVAL it holds INTERVAL less `k` modulo INTERVAL, whatever the program does. -/
def Obligations.TimerPeriodOverRuns : Prop :=
  ∀ (k : Nat) (s t : State), s.run = .running → 1 ≤ s.interval.toInt → s.timer = s.interval →
    Host.Core.run Sys2Proof.core k s = .next t → t.run = .running →
    t.timer.toInt = s.interval.toInt - (k : Int) % s.interval.toInt

/-- R221, R103 (the latter the spec's own derivation): in system mode an expiry is lost: the value TIMER holds decides nothing but TIMER itself. -/
def Obligations.ExpiryInSystemModeIsLost : Prop :=
  ∀ (s : State) (a : Word) (t : State), s.run = .running → s.mode = .system → step s = .next t →
    ∃ u : State, step { s with timer := a } = .next u ∧ { u with timer := 0 } = { t with timer := 0 }

/-- R27, R193, R230: in a step of a running unit only the timer interrupt or an INT at PC leads from user to system mode, and only an
IRET at PC from system to user mode. -/
def Obligations.ModeChanges : Prop :=
  ∀ s t : State, s.run = .running → step s = .next t →
    (s.mode = .user → t.mode = .system →
      s.timer.toInt = 1 ∨ (0 ≤ s.pc.toInt ∧ s.pc.toInt ≤ 1999 ∧ Memory.read s.mem s.pc.toNat = 29)) ∧
    (s.mode = .system → t.mode = .user →
      0 ≤ s.pc.toInt ∧ s.pc.toInt ≤ 1999 ∧ Memory.read s.mem s.pc.toNat = 30)

/-! ## Shared operations -/

/-- R28: SP is the register MODE selects; a write of SP writes that one and leaves the other, and everything else, unchanged. -/
def Obligations.ActiveStackPointer : Prop :=
  ∀ (s : State) (v : Word),
    (s.mode = .user → s.sp = s.usp ∧ s.setSp v = { s with usp := v }) ∧
      (s.mode = .system → s.sp = s.ssp ∧ s.setSp v = { s with ssp := v })

/-- R55, R56, R61, R62: after a write of `v` to `a` a read of `a` returns `v`, and a read of any other address returns what it did. -/
def Obligations.ReadAfterWrite : Prop :=
  ∀ (s t : State) (a b : Int) (v : Word), memWrite a v s = .done () t → 0 ≤ b → b ≤ 1999 →
    ∃ w u, memRead b t = .done w u ∧ u.mem = t.mem ∧
      (b = a → w = v) ∧ (b ≠ a → ∃ u', memRead b s = .done w u')

/-- R60: outside `0..1999` nothing is sent and AddressRangeFault is raised with the exact address; inside, exactly one message. -/
def Obligations.RangeCheck : Prop :=
  ∀ (s : State) (a : Int) (v : Word),
    let bad := { s with fault := ⟨.addressRange, a⟩, run := .faulted, exitStatus := some .failure }
    (a < 0 ∨ 1999 < a → memRead a s = .raised bad ∧ memWrite a v s = .raised bad) ∧
      (0 ≤ a → a ≤ 1999 →
        memRead a s = .done (Memory.read s.mem a.toNat)
          { s with requests := s.requests ++ [⟨.read, BitVec.ofInt 32 a, 0⟩] } ∧
        memWrite a v s = .done ()
          { s with requests := s.requests ++ [⟨.write, BitVec.ofInt 32 a, v⟩], mem := Memory.write s.mem a.toNat v })

/-- R69 (the spec's own derivation): a store by opcode 7 into the word fetched next is what that fetch gives. -/
def Obligations.StoreSeenByNextFetch : Prop :=
  ∀ (s t : State) (a : Word), exec (.storeAddr a) s = .next t → t.run = .running → s.pc = a →
    s.run = .running → ∃ u, fetchWord t = .done s.ac u ∧ u.pc = a + 1

/-- R71: the access check emits one diagnostic when the value of the active stack pointer is below 1000 and the address is 1000 or
above, whatever MODE says, and changes nothing else. -/
def Obligations.AccessCheck : Prop :=
  ∀ (s : State) (a : Word),
    (s.sp.toInt < 1000 → 1000 ≤ a.toInt →
      checkMemAccess a s = { s with emissions := s.emissions ++ [⟨.diagViolation, a⟩] }) ∧
    (1000 ≤ s.sp.toInt ∨ a.toInt < 1000 → checkMemAccess a s = s)

/-- R224: the trap entry: SYSTEM, PC at `s-1`, USP at `s-2`, SSP at `s-2`, PC at the vector. Where a push fails the range check
MODE is already SYSTEM, and a completed first push stands. -/
def Obligations.TrapEntryRule : Prop :=
  ∀ (s : State) (vector : Word), s.mode = .user →
    (2 ≤ s.ssp.toInt → s.ssp.toInt ≤ 2000 →
      trapEntry vector s = .done () { s with
        mode := .system, ssp := s.ssp - 2, pc := vector,
        mem := Memory.write (Memory.write s.mem (s.ssp.toNat - 1) s.pc) (s.ssp.toNat - 2) s.usp,
        requests := s.requests ++ [⟨.write, s.ssp - 1, s.pc⟩, ⟨.write, s.ssp - 2, s.usp⟩] }) ∧
    (s.ssp.toInt = 1 →
      trapEntry vector s = .raised { s with
        mode := .system, ssp := 0, mem := Memory.write s.mem 0 s.pc,
        requests := s.requests ++ [⟨.write, 0, s.pc⟩],
        fault := ⟨.addressRange, -1⟩, run := .faulted, exitStatus := some .failure }) ∧
    (s.ssp.toInt < 1 ∨ 2000 < s.ssp.toInt →
      trapEntry vector s = .raised { s with
        mode := .system, fault := ⟨.addressRange, s.ssp.toInt - 1⟩, run := .faulted, exitStatus := some .failure })

/-! ## Loads and the store -/

/-- R121: LOAD_VALUE. -/
def Obligations.LoadValueRule : Prop :=
  ∀ (s : State) (v : Word), encode (.loadValue v) = [1, v] ∧ exec (.loadValue v) s = .next { s with ac := v }

/-- R122: LOAD_ADDR: the diagnostic first, then the read; out of range the diagnostic still stands (D24). -/
def Obligations.LoadAddrRule : Prop :=
  ∀ (s : State) (a : Word),
    let events := s.emissions ++ (if s.sp.toInt < 1000 ∧ 1000 ≤ a.toInt then [⟨.diagViolation, a⟩] else [])
    encode (.loadAddr a) = [2, a] ∧
    (0 ≤ a.toInt → a.toInt ≤ 1999 →
      exec (.loadAddr a) s = .next { s with
        ac := Memory.read s.mem a.toNat, emissions := events, requests := s.requests ++ [⟨.read, a, 0⟩] }) ∧
    (a.toInt < 0 ∨ 1999 < a.toInt →
      exec (.loadAddr a) s = .next { s with
        emissions := events, fault := ⟨.addressRange, a.toInt⟩, run := .faulted, exitStatus := some .failure })

/-- R123: LOADIND_ADDR: two reads in order; a bad pointer faults after the first. -/
def Obligations.LoadIndirectRule : Prop :=
  ∀ (s : State) (a : Word),
    let p := Memory.read s.mem a.toNat
    encode (.loadindAddr a) = [3, a] ∧
    (0 ≤ a.toInt → a.toInt ≤ 1999 → 0 ≤ p.toInt → p.toInt ≤ 1999 →
      exec (.loadindAddr a) s = .next { s with
        ac := Memory.read s.mem p.toNat, requests := s.requests ++ [⟨.read, a, 0⟩, ⟨.read, p, 0⟩] }) ∧
    (a.toInt < 0 ∨ 1999 < a.toInt →
      exec (.loadindAddr a) s = .next { s with
        fault := ⟨.addressRange, a.toInt⟩, run := .faulted, exitStatus := some .failure }) ∧
    (0 ≤ a.toInt → a.toInt ≤ 1999 → p.toInt < 0 ∨ 1999 < p.toInt →
      exec (.loadindAddr a) s = .next { s with
        requests := s.requests ++ [⟨.read, a, 0⟩],
        fault := ⟨.addressRange, p.toInt⟩, run := .faulted, exitStatus := some .failure })

/-- R124, R125: LOADIDX_X and LOADIDX_Y: the sum is exact, never wrapped. -/
def Obligations.LoadIndexedRule : Prop :=
  ∀ (s : State) (a : Word),
    encode (.loadidxX a) = [4, a] ∧ encode (.loadidxY a) = [5, a] ∧
    (∀ ea, ea = a.toInt + s.x.toInt → 0 ≤ ea → ea ≤ 1999 →
      exec (.loadidxX a) s = .next { s with
        ac := Memory.read s.mem ea.toNat, requests := s.requests ++ [⟨.read, BitVec.ofInt 32 ea, 0⟩] }) ∧
    (∀ ea, ea = a.toInt + s.x.toInt → ea < 0 ∨ 1999 < ea →
      exec (.loadidxX a) s = .next { s with
        fault := ⟨.addressRange, ea⟩, run := .faulted, exitStatus := some .failure }) ∧
    (∀ ea, ea = a.toInt + s.y.toInt → 0 ≤ ea → ea ≤ 1999 →
      exec (.loadidxY a) s = .next { s with
        ac := Memory.read s.mem ea.toNat, requests := s.requests ++ [⟨.read, BitVec.ofInt 32 ea, 0⟩] }) ∧
    (∀ ea, ea = a.toInt + s.y.toInt → ea < 0 ∨ 1999 < ea →
      exec (.loadidxY a) s = .next { s with
        fault := ⟨.addressRange, ea⟩, run := .faulted, exitStatus := some .failure })

/-- R126, R203: LOAD_SPX: the bound 999 in both modes, tested before the range. -/
def Obligations.LoadStackRule : Prop :=
  ∀ (s : State) (ea : Int), ea = s.sp.toInt + s.x.toInt →
    encode .loadSpx = [6] ∧ Cause.stackBound.code = 1 ∧
    (0 ≤ ea → ea < 999 →
      exec .loadSpx s = .next { s with
        ac := Memory.read s.mem ea.toNat, requests := s.requests ++ [⟨.read, BitVec.ofInt 32 ea, 0⟩] }) ∧
    (999 ≤ ea →
      exec .loadSpx s = .next { s with
        fault := ⟨.stackBound, ea⟩, run := .faulted, exitStatus := some .failure }) ∧
    (ea < 0 →
      exec .loadSpx s = .next { s with
        fault := ⟨.addressRange, ea⟩, run := .faulted, exitStatus := some .failure })

/-- R127: STORE_ADDR. -/
def Obligations.StoreRule : Prop :=
  ∀ (s : State) (a : Word),
    encode (.storeAddr a) = [7, a] ∧
    (0 ≤ a.toInt → a.toInt ≤ 1999 →
      ∃ m, exec (.storeAddr a) s = .next { s with mem := m, requests := s.requests ++ [⟨.write, a, s.ac⟩] } ∧
        Memory.read m a.toNat = s.ac ∧ ∀ b, b ≠ a.toNat → Memory.read m b = Memory.read s.mem b) ∧
    (a.toInt < 0 ∨ 1999 < a.toInt →
      exec (.storeAddr a) s = .next { s with
        fault := ⟨.addressRange, a.toInt⟩, run := .faulted, exitStatus := some .failure })

/-! ## Input and output -/

/-- R140: GET loads some integer in 1..100 and changes nothing else; the count of draws is the model's own field (log entry 4) and may
hold anything after. -/
def Obligations.GetRule : Prop :=
  ∀ s : State, encode .get = [8] ∧
    ∃ (r : Word) (n : Nat), 1 ≤ r.toInt ∧ r.toInt ≤ 100 ∧ exec .get s = .next { s with ac := r, draws := n }

/-- R141, R205: PUT on port 1, on port 2, and on any other port. -/
def Obligations.PutRule : Prop :=
  ∀ (s : State) (p : Word), encode (.put p) = [9, p] ∧ Cause.illegalPort.code = 4 ∧
    (p = 1 → exec (.put p) s = .next { s with emissions := s.emissions ++ [⟨.outDec, s.ac⟩] }) ∧
    (p = 2 → exec (.put p) s = .next { s with emissions := s.emissions ++ [⟨.outChr, s.ac⟩] }) ∧
    (p ≠ 1 → p ≠ 2 →
      exec (.put p) s = .next { s with
        fault := ⟨.illegalPort, p.toInt⟩, run := .faulted, exitStatus := some .failure })

/-! ## Arithmetic and copies -/

/-- R151 to R154 (the arithmetic law is R150): ADD_X, ADD_Y, SUB_X and SUB_Y deliver the word congruent to the exact sum or difference
modulo 2^32, and change AC alone. -/
def Obligations.AddSubRule : Prop :=
  ∀ s : State,
    (encode .addX = [10] ∧ ∃ r : Word, exec .addX s = .next { s with ac := r } ∧
      r.toInt = (s.ac.toInt + s.x.toInt).bmod 4294967296) ∧
    (encode .addY = [11] ∧ ∃ r : Word, exec .addY s = .next { s with ac := r } ∧
      r.toInt = (s.ac.toInt + s.y.toInt).bmod 4294967296) ∧
    (encode .subX = [12] ∧ ∃ r : Word, exec .subX s = .next { s with ac := r } ∧
      r.toInt = (s.ac.toInt - s.x.toInt).bmod 4294967296) ∧
    (encode .subY = [13] ∧ ∃ r : Word, exec .subY s = .next { s with ac := r } ∧
      r.toInt = (s.ac.toInt - s.y.toInt).bmod 4294967296)

/-- R161, R162: INC_X and DEC_X wrap and change X alone. -/
def Obligations.IncDecRule : Prop :=
  ∀ s : State, encode .incX = [25] ∧ encode .decX = [26] ∧
    (∃ r : Word, exec .incX s = .next { s with x := r } ∧
      r.toInt = (if s.x.toInt = 2147483647 then -2147483648 else s.x.toInt + 1)) ∧
    (∃ r : Word, exec .decX s = .next { s with x := r } ∧
      r.toInt = (if s.x.toInt = -2147483648 then 2147483647 else s.x.toInt - 1))

/-- R155 to R158: the four copies between AC, X and Y. The direction of each number is the spec's own decision D13 (log entry 11). -/
def Obligations.CopyRule : Prop :=
  ∀ s : State,
    (encode .copyToX = [14] ∧ exec .copyToX s = .next { s with x := s.ac }) ∧
    (encode .copyFromX = [15] ∧ exec .copyFromX s = .next { s with ac := s.x }) ∧
    (encode .copyToY = [16] ∧ exec .copyToY s = .next { s with y := s.ac }) ∧
    (encode .copyFromY = [17] ∧ exec .copyFromY s = .next { s with ac := s.y })

/-- R159, R160: the copies to and from the active stack pointer. -/
def Obligations.StackPointerCopyRule : Prop :=
  ∀ s : State, encode .copyToSp = [18] ∧ encode .copyFromSp = [19] ∧
    (s.mode = .user → exec .copyToSp s = .next { s with usp := s.ac } ∧
      exec .copyFromSp s = .next { s with ac := s.usp }) ∧
    (s.mode = .system → exec .copyToSp s = .next { s with ssp := s.ac } ∧
      exec .copyFromSp s = .next { s with ac := s.ssp })

/-! ## Control transfer -/

/-- R171 to R173: JUMP and the two conditional jumps: the target is taken whole and not checked; not taken, PC is the next
instruction's. -/
def Obligations.JumpRule : Prop :=
  ∀ (s : State) (a : Word),
    (encode (.jump a) = [20, a] ∧ exec (.jump a) s = .next { s with pc := a }) ∧
    encode (.jumpIfZero a) = [21, a] ∧ encode (.jumpIfNonzero a) = [22, a] ∧
    (s.ac = 0 → exec (.jumpIfZero a) s = .next { s with pc := a } ∧ exec (.jumpIfNonzero a) s = .next s) ∧
    (s.ac ≠ 0 → exec (.jumpIfZero a) s = .next s ∧ exec (.jumpIfNonzero a) s = .next { s with pc := a })

/-- R174, R175: CALL pushes the advanced PC on the active stack and jumps; RET pops PC from the active stack. Out of range either is
fatal with nothing moved. -/
def Obligations.CallRetRule : Prop :=
  ∀ (s : State) (a : Word), encode (.call a) = [23, a] ∧ encode .ret = [24] ∧
    (1 ≤ s.sp.toInt → s.sp.toInt ≤ 2000 →
      exec (.call a) s = .next { s.setSp (s.sp - 1) with
        pc := a, mem := Memory.write s.mem (s.sp.toNat - 1) s.pc,
        requests := s.requests ++ [⟨.write, s.sp - 1, s.pc⟩] }) ∧
    (s.sp.toInt < 1 ∨ 2000 < s.sp.toInt →
      exec (.call a) s = .next { s with
        fault := ⟨.addressRange, s.sp.toInt - 1⟩, run := .faulted, exitStatus := some .failure }) ∧
    (0 ≤ s.sp.toInt → s.sp.toInt ≤ 1999 →
      exec .ret s = .next { s.setSp (s.sp + 1) with
        pc := Memory.read s.mem s.sp.toNat, requests := s.requests ++ [⟨.read, s.sp, 0⟩] }) ∧
    (s.sp.toInt < 0 ∨ 1999 < s.sp.toInt →
      exec .ret s = .next { s with
        fault := ⟨.addressRange, s.sp.toInt⟩, run := .faulted, exitStatus := some .failure })

/-! ## Stack -/

/-- R182, R183 (over R180 and R181): PUSH lowers the active pointer by one and writes AC there; POP reads the word it addresses into
AC and raises it by one, and memory keeps the word. Out of range either is fatal with nothing moved. -/
def Obligations.PushPopRule : Prop :=
  ∀ s : State, encode .push = [27] ∧ encode .pop = [28] ∧
    (1 ≤ s.sp.toInt → s.sp.toInt ≤ 2000 →
      exec .push s = .next { s.setSp (s.sp - 1) with
        mem := Memory.write s.mem (s.sp.toNat - 1) s.ac,
        requests := s.requests ++ [⟨.write, s.sp - 1, s.ac⟩] }) ∧
    (s.sp.toInt < 1 ∨ 2000 < s.sp.toInt →
      exec .push s = .next { s with
        fault := ⟨.addressRange, s.sp.toInt - 1⟩, run := .faulted, exitStatus := some .failure }) ∧
    (0 ≤ s.sp.toInt → s.sp.toInt ≤ 1999 →
      exec .pop s = .next { s.setSp (s.sp + 1) with
        ac := Memory.read s.mem s.sp.toNat, requests := s.requests ++ [⟨.read, s.sp, 0⟩] }) ∧
    (s.sp.toInt < 0 ∨ 1999 < s.sp.toInt →
      exec .pop s = .next { s with
        fault := ⟨.addressRange, s.sp.toInt⟩, run := .faulted, exitStatus := some .failure })

/-- R182, R183, the source's property S2: a push followed at once by a pop leaves AC and both stack pointers as they were, in
every state whose push succeeds. -/
def Obligations.PushThenPopRestores : Prop :=
  ∀ s : State, 1 ≤ s.sp.toInt → s.sp.toInt ≤ 2000 →
    ∃ t u, exec .push s = .next t ∧ exec .pop t = .next u ∧
      u = { s with mem := u.mem, requests := u.requests } ∧
      ∀ b, b ≠ s.sp.toNat - 1 → Memory.read u.mem b = Memory.read s.mem b

/-- R174, R175, the source's property S3: a call followed by a return leaves PC at the word after the call's operand and the stack
pointer restored. -/
def Obligations.CallThenRetRestores : Prop :=
  ∀ (s : State) (a : Word), 1 ≤ s.sp.toInt → s.sp.toInt ≤ 2000 →
    ∃ t u, exec (.call a) s = .next t ∧ t.pc = a ∧
      exec .ret { t with pc := t.pc + 1 } = .next u ∧ u = { s with mem := u.mem, requests := u.requests }

/-! ## System -/

/-- R190, R207: INT in user mode enters at 1500 with the frame of R224; in system mode it is fatal and pushes nothing; a push out
of range is fatal. -/
def Obligations.IntRule : Prop :=
  ∀ s : State, encode .int = [29] ∧ Cause.illegalMode.code = 5 ∧
    (s.mode = .user → 2 ≤ s.ssp.toInt → s.ssp.toInt ≤ 2000 →
      exec .int s = .next { s with
        mode := .system, ssp := s.ssp - 2, pc := 1500,
        mem := Memory.write (Memory.write s.mem (s.ssp.toNat - 1) s.pc) (s.ssp.toNat - 2) s.usp,
        requests := s.requests ++ [⟨.write, s.ssp - 1, s.pc⟩, ⟨.write, s.ssp - 2, s.usp⟩] }) ∧
    (s.mode = .system →
      exec .int s = .next { s with
        fault := ⟨.illegalMode, 29⟩, run := .faulted, exitStatus := some .failure }) ∧
    (s.mode = .user → s.ssp.toInt = 1 →
      exec .int s = .next { s with
        mode := .system, ssp := 0, mem := Memory.write s.mem 0 s.pc, requests := s.requests ++ [⟨.write, 0, s.pc⟩],
        fault := ⟨.addressRange, -1⟩, run := .faulted, exitStatus := some .failure }) ∧
    (s.mode = .user → s.ssp.toInt < 1 ∨ 2000 < s.ssp.toInt →
      exec .int s = .next { s with
        mode := .system, fault := ⟨.addressRange, s.ssp.toInt - 1⟩, run := .faulted, exitStatus := some .failure })

/-- R192, R207: IRET in system mode pops USP, then PC, from the system stack, and leaves system mode last; in user mode it is fatal
and pops nothing; a pop out of range is fatal, after the first one where it is the second. -/
def Obligations.IretRule : Prop :=
  ∀ s : State, encode .iret = [30] ∧
    (s.mode = .system → 0 ≤ s.ssp.toInt → s.ssp.toInt ≤ 1998 →
      exec .iret s = .next { s with
        usp := Memory.read s.mem s.ssp.toNat, pc := Memory.read s.mem (s.ssp.toNat + 1), ssp := s.ssp + 2, mode := .user,
        requests := s.requests ++ [⟨.read, s.ssp, 0⟩, ⟨.read, s.ssp + 1, 0⟩] }) ∧
    (s.mode = .user →
      exec .iret s = .next { s with
        fault := ⟨.illegalMode, 30⟩, run := .faulted, exitStatus := some .failure }) ∧
    (s.mode = .system → s.ssp.toInt = 1999 →
      exec .iret s = .next { s with
        usp := Memory.read s.mem 1999, ssp := 2000, requests := s.requests ++ [⟨.read, 1999, 0⟩],
        fault := ⟨.addressRange, 2000⟩, run := .faulted, exitStatus := some .failure }) ∧
    (s.mode = .system → s.ssp.toInt < 0 ∨ 1999 < s.ssp.toInt →
      exec .iret s = .next { s with
        fault := ⟨.addressRange, s.ssp.toInt⟩, run := .faulted, exitStatus := some .failure })

/-- R226, the source's property S4: an IRET whose SSP points at the frame an entry made restores PC, USP, SSP and the mode of before
the entry, whatever the handler did to everything else. -/
def Obligations.TrapThenIretRestores : Prop :=
  ∀ (s e t : State) (vector : Word), s.mode = .user → trapEntry vector s = .done () e →
    t.mode = .system → t.ssp = e.ssp →
    (∀ b : Nat, (b : Int) = e.ssp.toInt ∨ (b : Int) = e.ssp.toInt + 1 → Memory.read t.mem b = Memory.read e.mem b) →
    ∃ reqs, exec .iret t = .next { t with
      pc := s.pc, usp := s.usp, ssp := s.ssp, mode := .user, requests := t.requests ++ reqs }

/-- R194: END sends TERMINATE and waits for MEM_EXITED: with a Memory Engine that exits the run ends with success; with one that never
exits the unit stays in HALTING (R65). That the wait is inside the instruction, and which lapses keep a Memory Engine from exiting, is the
model's choice (log entry 6, DESIGN CHOICE). -/
def Obligations.EndRule : Prop :=
  ∀ s : State, encode .endRun = [50] ∧ ExitStatus.success.code = 0 ∧
    (s.lapse ≠ .neverExits →
      exec .endRun s = .next { s with
        run := .exited, exitStatus := some .success, engine := .exited,
        requests := s.requests ++ [⟨.terminate, 0, 0⟩] }) ∧
    (s.lapse = .neverExits →
      exec .endRun s = .next { s with run := .halting, requests := s.requests ++ [⟨.terminate, 0, 0⟩] })

/-! ## Frames, over all instructions -/

/-- R100, R201: every instruction answers a next state in every state: no meaning stops the model. That a fatal fault is a next state is
the model's reading of R201 (log entry 1, DEDUCED). -/
def Obligations.EveryInstructionAnswers : Prop :=
  ∀ (i : Instr) (s : State), ∃ t, exec i s = .next t

/-- R38 (the spec's own summary of the instruction rules), R28: AC, X, Y, USP and SSP are unchanged but for the registers the table names for the instruction in this mode. -/
def Obligations.RegisterFrame : Prop :=
  ∀ (i : Instr) (s t : State) (r : Reg), exec i s = .next t → r ∉ writtenRegs i s.mode → r.value t = r.value s

/-- R31, R27, R201, R202: no instruction writes TIMER, INTERVAL or `lapse`; only INT and IRET write MODE; the transfers alone write PC; only GET
draws; the Memory Engine's status changes only by END (that a fatal fault leaves it is the model's choice, log entry 17); RUN, FAULT and
the exit status change only by END and by a fatal fault, which the instructions of `neverFaults` do not raise. -/
def Obligations.ControlFrame : Prop :=
  ∀ (i : Instr) (s t : State), exec i s = .next t →
    t.timer = s.timer ∧ t.interval = s.interval ∧ t.lapse = s.lapse ∧
    (i ≠ .int → i ≠ .iret → t.mode = s.mode) ∧
    ((∀ a, i ≠ .jump a) → (∀ a, i ≠ .jumpIfZero a) → (∀ a, i ≠ .jumpIfNonzero a) → (∀ a, i ≠ .call a) →
      i ≠ .ret → i ≠ .int → i ≠ .iret → t.pc = s.pc) ∧
    (i ≠ .get → t.draws = s.draws) ∧
    (i ≠ .endRun → t.engine = s.engine) ∧
    (i ≠ .endRun →
      (t.run = s.run ∧ t.fault = s.fault ∧ t.exitStatus = s.exitStatus) ∨
        (t.run = .faulted ∧ t.fault.cause ≠ .none ∧ t.exitStatus = some .failure)) ∧
    (neverFaults i = true → t.fault = s.fault ∧ (i ≠ .endRun → t.run = s.run ∧ t.exitStatus = s.exitStatus))

/-- R38, R109: an instruction that stores nothing (all but STORE_ADDR, CALL, PUSH and INT) leaves every word of memory. -/
def Obligations.MemoryFrameNoStore : Prop :=
  ∀ (i : Instr) (s t : State), (∀ a, i ≠ .storeAddr a) → (∀ a, i ≠ .call a) → i ≠ .push → i ≠ .int →
    exec i s = .next t → ∀ b, Memory.read t.mem b = Memory.read s.mem b

/-- R127, R180, R224: STORE_ADDR changes the word at its operand alone; CALL and PUSH the word below the active stack pointer alone; INT
the two words below SSP alone. -/
def Obligations.MemoryFrameStore : Prop :=
  ∀ (s t : State) (b : Nat),
    (∀ a, exec (.storeAddr a) s = .next t → (b : Int) ≠ directAddr a → Memory.read t.mem b = Memory.read s.mem b) ∧
    (∀ a, exec (.call a) s = .next t → (b : Int) ≠ s.sp.toInt - 1 → Memory.read t.mem b = Memory.read s.mem b) ∧
    (exec .push s = .next t → (b : Int) ≠ s.sp.toInt - 1 → Memory.read t.mem b = Memory.read s.mem b) ∧
    (exec .int s = .next t → (b : Int) ≠ s.ssp.toInt - 1 → (b : Int) ≠ s.ssp.toInt - 2 →
      Memory.read t.mem b = Memory.read s.mem b)

/-- R109 (the spec's own summary of the instruction rules), R63: the messages a body sends are those of the table, in its order, appended to the trace. -/
def Obligations.BodyRequestTrace : Prop :=
  ∀ (i : Instr) (s t : State), exec i s = .next t → t.requests = s.requests ++ bodyRequests i s

/-- R109, R72, R143: the events a body emits are those of the table: only opcode 9 prints and only opcode 2 runs the access check. -/
def Obligations.BodyEmissions : Prop :=
  ∀ (i : Instr) (s t : State), exec i s = .next t → t.emissions = s.emissions ++ bodyEvents i s

/-- R28: in system mode USP is named by IRET alone, which overwrites it: no other instruction's outcome depends on it or changes it. -/
def Obligations.UserPointerUnusedInSystemMode : Prop :=
  ∀ (i : Instr) (s t : State) (u : Word), s.mode = .system → i ≠ .iret → exec i s = .next t →
    t.usp = s.usp ∧ exec i { s with usp := u } = .next { t with usp := u }

/-! ## Invariants every step keeps -/

/-- R50, R12: memory keeps the canonical form of the model (log entries 3 and 7): no address but `0..1999` comes into being. -/
def Obligations.MemoryFormKept : Prop :=
  ∀ s t : State, Memory.wf s.mem → step s = .next t → Memory.wf t.mem

/-- R31 (its range is the spec's own derivation): `1 <= TIMER <= INTERVAL` between the cycles of a running unit, and INTERVAL is constant. -/
def Obligations.TimerRangeKept : Prop :=
  ∀ s t : State, TimerOk s → step s = .next t → TimerOk t ∧ t.interval = s.interval

/-- R32, R33, R201, R194: the exit status and the fault record agree with RUN; so does the Memory Engine's status (R58, R242, R57), but
after a fatal fault, where the spec leaves it open (log entry 17). What promise the Memory Engine breaks is constant (log entry 6). -/
def Obligations.StatusKept : Prop :=
  ∀ s t : State, StatusOk s → step s = .next t → StatusOk t ∧ t.lapse = s.lapse

/-- R60, R63, R195: every message sent is a READ or a WRITE of an existing address, but for one TERMINATE, the last, once halted. -/
def Obligations.RequestTraceKept : Prop :=
  ∀ s t : State, TraceOk s → step s = .next t → TraceOk t

/-- R66: in every step memory stays what the request trace says: each word is the latest write to it in the trace, else what it was
before the first message. -/
def Obligations.MemoryIsTraceReplay : Prop :=
  ∀ (image : Nat → Word) (s t : State),
    (∀ a < 2000, Memory.read s.mem a = replay a (image a) s.requests) → step s = .next t →
    ∀ a < 2000, Memory.read t.mem a = replay a (image a) t.requests

/-- R37, R143: the traces only grow. -/
def Obligations.TracesOnlyGrow : Prop :=
  ∀ s t : State, step s = .next t →
    (∃ r, t.requests = s.requests ++ r) ∧ ∃ e, t.emissions = s.emissions ++ e

/-- R39: the machine at reset meets the four invariants and its memory is the image, for every IMAGE and every legal INTERVAL. -/
def Obligations.LaunchMeetsInvariants : Prop :=
  ∀ (interval : Word) (image : Nat → Word), 1 ≤ interval.toInt →
    let s := State.launch interval image
    Memory.wf s.mem ∧ TimerOk s ∧ StatusOk s ∧ TraceOk s ∧
      ∀ a < 2000, Memory.read s.mem a = replay a (image a) s.requests

/-! ## Console -/

/-- R144, a property of the host side of the console port: OUT_DEC appears as the shortest decimal numeral, with a minus sign before a
negative value; OUT_CHR as the byte that is the value modulo 256 (decision D17 of the spec, log entry 16); the diagnostic as a text that
names the address, in decimal by the model's choice (log entry 9, DESIGN CHOICE). -/
def Obligations.ConsoleRendering : Prop :=
  ∀ v : Word,
    (∃ ds : List Byte,
      renderEvent ⟨.outDec, v⟩ = (if v.toInt < 0 then [45] else []) ++ ds ∧ ds ≠ [] ∧
        (∀ d ∈ ds, 48 ≤ d.toNat ∧ d.toNat ≤ 57) ∧ decValue ds = v.toInt.natAbs ∧ (ds.head? = some 48 → ds = [48])) ∧
    (∃ c : Byte, renderEvent ⟨.outChr, v⟩ = [c] ∧ (c.toNat : Int) = v.toInt % 256) ∧
    ∃ before later, renderEvent ⟨.diagViolation, v⟩ = before ++ renderEvent ⟨.outDec, v⟩ ++ later

/-! ## A Memory Engine that breaks its contract -/

/-- R65, R110: a cycle that sends a READ or a WRITE that is never answered, the first of them or a later one, is stuck, not faulted: it is
the cycle a Memory Engine that obeys its contract would give, up to that request. A cycle whose every READ and WRITE is answered, and one
that sends none, is that cycle. In HALTING the unit is stuck where the Memory Engine never exits. That a stuck unit is a stop of the
model is log entry 6. -/
def Obligations.UnansweredRequestIsStuck : Prop :=
  ∀ s : State,
    (s.run = .halting → s.lapse = .neverExits → step s = .fault .memoryNeverExits) ∧
    ∀ n : Nat, s.run = .running → s.engine = .serving →
      ∃ t, step { s with lapse := .none } = .next t ∧
        (SentFrom n s t → step { s with lapse := .neverAnswers n } = .fault .memoryNeverAnswers) ∧
        (¬SentFrom n s t → step { s with lapse := .neverAnswers n } = .next { t with lapse := .neverAnswers n })
end

