-- ==== Sys2Proof/Laws/Memory.lean ====
section
/-! SUPPORT. Memory as data: a read after a write, and that every memory operation keeps the canonical form. -/

namespace Sys2Proof.Machine

@[simp] theorem Memory.read_nil (a : Nat) : Memory.read [] a = 0#32 := rfl

/-- An address no cell lists reads 0. -/
theorem Memory.read_unlisted (m : Memory) (a : Nat) (h : ∀ c ∈ m, c.1 ≠ a) : Memory.read m a = 0#32 := by
  induction m with
  | nil => rfl
  | cons c m ih =>
    have hc : ¬ a = c.1 := fun e => h c (by simp) e.symm
    simp only [Memory.read, hc, if_false]
    exact ih fun d hd => h d (by simp [hd])

/-- Putting a cell of an unlisted address changes that address alone. -/
theorem Memory.read_insert (m : Memory) (a : Nat) (v : Word) (b : Nat) (h : ∀ c ∈ m, c.1 ≠ a) :
    Memory.read (Memory.insert m a v) b = if b = a then v else Memory.read m b := by
  induction m with
  | nil =>
    by_cases hv : v = 0#32
    · simp [Memory.insert, Memory.read, hv]
    · simp [Memory.insert, Memory.read, hv]
  | cons c m ih =>
    have hc : c.1 ≠ a := h c (by simp)
    have ih := ih fun d hd => h d (by simp [hd])
    by_cases hv : v = 0#32
    · by_cases hb : b = a
      · subst hb
        simp only [Memory.insert, hv, if_true]
        exact Memory.read_unlisted _ _ h
      · simp [Memory.insert, hv, hb]
    · by_cases hlt : a < c.1
      · simp [Memory.insert, hv, hlt, Memory.read]
      · by_cases hbc : b = c.1
        · subst hbc; simp [Memory.insert, hv, hlt, Memory.read, hc]
        · simp [Memory.insert, hv, hlt, Memory.read, hbc, ih]

/-- Dropping the cells of one address leaves every other address. -/
theorem Memory.read_filter (m : Memory) (a b : Nat) (h : b ≠ a) :
    Memory.read (m.filter fun c => c.1 != a) b = Memory.read m b := by
  induction m with
  | nil => rfl
  | cons c m ih =>
    by_cases hc : c.1 = a
    · have hb : ¬ b = c.1 := fun e => h (e.trans hc)
      simp [hc, Memory.read, h, ih]
    · simp [hc, Memory.read, ih]

/-- R56: a read after a write, at the address written and at every other. -/
@[simp] theorem Memory.read_write (m : Memory) (a : Nat) (v : Word) (b : Nat) :
    Memory.read (Memory.write m a v) b = if b = a then v else Memory.read m b := by
  unfold Memory.write
  rw [Memory.read_insert _ _ _ _ (by simp)]
  by_cases h : b = a
  · simp [h]
  · simp [h, Memory.read_filter m a b h]

theorem Memory.mem_insert (m : Memory) (a : Nat) (v : Word) (c : Nat × Word) (h : c ∈ Memory.insert m a v) :
    c ∈ m ∨ (c = (a, v) ∧ v ≠ 0#32) := by
  induction m with
  | nil =>
    by_cases hv : v = 0#32
    · simp [Memory.insert, hv] at h
    · simp [Memory.insert, hv] at h; exact .inr ⟨h, hv⟩
  | cons d m ih =>
    by_cases hv : v = 0#32
    · simp only [Memory.insert, hv, if_true] at h; exact .inl h
    · by_cases hlt : a < d.1
      · simp only [Memory.insert, hv, hlt, if_true, if_false, List.mem_cons] at h
        rcases h with h | h
        · exact .inr ⟨h, hv⟩
        · exact .inl (by simpa using h)
      · simp only [Memory.insert, hv, hlt, if_false, List.mem_cons] at h
        rcases h with h | h
        · exact .inl (by simp [h])
        · rcases ih h with h | h
          · exact .inl (by simp [h])
          · exact .inr h

theorem Memory.insert_wf (m : Memory) (a : Nat) (v : Word) (hm : Memory.wf m) (ha : a < Config.memWords)
    (h : ∀ c ∈ m, c.1 ≠ a) : Memory.wf (Memory.insert m a v) := by
  induction m with
  | nil =>
    by_cases hv : v = 0#32 <;> simp [Memory.insert, hv, ha, Memory.wf]
  | cons d m ih =>
    obtain ⟨hp, hc⟩ := hm
    rw [List.pairwise_cons] at hp
    have hda : d.1 ≠ a := h d (by simp)
    by_cases hv : v = 0#32
    · simp only [Memory.insert, hv, if_true]
      exact ⟨List.pairwise_cons.2 hp, hc⟩
    · by_cases hlt : a < d.1
      · simp only [Memory.insert, hv, hlt, if_true, if_false]
        refine ⟨List.pairwise_cons.2 ⟨?_, List.pairwise_cons.2 hp⟩, ?_⟩
        · intro c hcm
          rcases List.mem_cons.1 hcm with rfl | hcm
          · exact hlt
          · exact hlt.trans (hp.1 c hcm)
        · intro c hcm
          rcases List.mem_cons.1 hcm with rfl | hcm
          · exact ⟨ha, hv⟩
          · exact hc c hcm
      · simp only [Memory.insert, hv, hlt, if_false]
        have ih := ih ⟨hp.2, fun c hcm => hc c (by simp [hcm])⟩ fun c hcm => h c (by simp [hcm])
        refine ⟨List.pairwise_cons.2 ⟨?_, ih.1⟩, ?_⟩
        · intro c hcm
          rcases Memory.mem_insert m a v c hcm with hcm | ⟨rfl, -⟩
          · exact hp.1 c hcm
          · change d.1 < a
            omega
        · intro c hcm
          rcases List.mem_cons.1 hcm with rfl | hcm
          · exact hc _ (by simp)
          · exact ih.2 c hcm

/-- A write inside the address space keeps the canonical form. -/
theorem Memory.write_wf (m : Memory) (a : Nat) (v : Word) (hm : Memory.wf m) (ha : a < Config.memWords) :
    Memory.wf (Memory.write m a v) := by
  refine Memory.insert_wf _ a v ⟨hm.1.filter _, fun c hc => hm.2 c (List.mem_filter.1 hc).1⟩ ha ?_
  intro c hc
  simpa using (List.mem_filter.1 hc).2

/-- R12: memory filled from an image is in canonical form. -/
theorem Memory.ofImage_wf (image : Nat → Word) : Memory.wf (Memory.ofImage image) := by
  constructor
  · refine List.Pairwise.filterMap _ ?_ List.pairwise_lt_range
    intro a b hab c hc d hd
    by_cases ha : image a = 0#32
    · simp [ha] at hc
    · by_cases hb : image b = 0#32
      · simp [hb] at hd
      · simp only [ha, if_false, Option.some.injEq] at hc; simp only [hb, if_false, Option.some.injEq] at hd
        rw [← hc, ← hd]; exact hab
  · intro c hc
    obtain ⟨a, ha, h⟩ := List.mem_filterMap.1 hc
    by_cases h0 : image a = 0#32
    · simp [h0] at h
    · simp only [h0, if_false, Option.some.injEq] at h
      rw [← h]; exact ⟨List.mem_range.1 ha, h0⟩

/-- Reading what a list of addresses, each once, was filled with. -/
theorem Memory.read_filterMap (image : Nat → Word) (a : Nat) (l : List Nat) (hl : l.Nodup) :
    Memory.read (l.filterMap fun b => if image b = 0#32 then none else some (b, image b)) a =
      if a ∈ l then image a else 0#32 := by
  induction l with
  | nil => simp
  | cons b l ih =>
    obtain ⟨hb, hl⟩ := List.nodup_cons.1 hl
    have ih := ih hl
    by_cases h0 : image b = 0#32
    · simp only [List.filterMap_cons, h0, if_true, ih, List.mem_cons]
      by_cases hab : a = b
      · subst hab; simp [hb, h0]
      · simp [hab]
    · simp only [List.filterMap_cons, h0, if_false, Memory.read, ih, List.mem_cons]
      by_cases hab : a = b <;> simp [hab]

/-- R12: memory filled from an image reads as the image. -/
theorem Memory.read_ofImage (image : Nat → Word) (a : Nat) :
    Memory.read (Memory.ofImage image) a = if a < Config.memWords then image a else 0#32 := by
  rw [Memory.ofImage, Memory.read_filterMap image a _ List.nodup_range]
  simp only [List.mem_range]

/-- R12: the memory of a launch is the image; `launch` itself is not for `rfl` to unfold, since it computes 2000 words. -/
@[simp] theorem launch_mem (interval : Word) (image : Nat → Word) : (State.launch interval image).mem = Memory.ofImage image := by
  simp only [State.launch]
@[simp] theorem launch_requests (interval : Word) (image : Nat → Word) : (State.launch interval image).requests = [] := by rfl

/-- The memory of State.reset is in canonical form. -/
theorem State.reset_mem_wf : Memory.wf State.reset.mem := by decide

end Sys2Proof.Machine
end

