-- ==== Sys2Proof/Laws/State.lean ====
section
/-! SUPPORT. One lemma per field per update: what `raise`, `send`, `emit`, `State.setSp` and `tick` leave in each field. -/

namespace Sys2Proof.Machine

/-! ## raise -/

@[simp] theorem raise_pc (c : Cause) (n : Int) (s : State) : (raise c n s).pc = s.pc := rfl
@[simp] theorem raise_ac (c : Cause) (n : Int) (s : State) : (raise c n s).ac = s.ac := rfl
@[simp] theorem raise_x (c : Cause) (n : Int) (s : State) : (raise c n s).x = s.x := rfl
@[simp] theorem raise_y (c : Cause) (n : Int) (s : State) : (raise c n s).y = s.y := rfl
@[simp] theorem raise_usp (c : Cause) (n : Int) (s : State) : (raise c n s).usp = s.usp := rfl
@[simp] theorem raise_ssp (c : Cause) (n : Int) (s : State) : (raise c n s).ssp = s.ssp := rfl
@[simp] theorem raise_mode (c : Cause) (n : Int) (s : State) : (raise c n s).mode = s.mode := rfl
@[simp] theorem raise_timer (c : Cause) (n : Int) (s : State) : (raise c n s).timer = s.timer := rfl
@[simp] theorem raise_run (c : Cause) (n : Int) (s : State) : (raise c n s).run = .faulted := rfl
@[simp] theorem raise_fault (c : Cause) (n : Int) (s : State) : (raise c n s).fault = ⟨c, n⟩ := rfl
@[simp] theorem raise_interval (c : Cause) (n : Int) (s : State) : (raise c n s).interval = s.interval := rfl
@[simp] theorem raise_mem (c : Cause) (n : Int) (s : State) : (raise c n s).mem = s.mem := rfl
@[simp] theorem raise_engine (c : Cause) (n : Int) (s : State) : (raise c n s).engine = s.engine := rfl
@[simp] theorem raise_lapse (c : Cause) (n : Int) (s : State) : (raise c n s).lapse = s.lapse := rfl
@[simp] theorem raise_requests (c : Cause) (n : Int) (s : State) : (raise c n s).requests = s.requests := rfl
@[simp] theorem raise_emissions (c : Cause) (n : Int) (s : State) : (raise c n s).emissions = s.emissions := rfl
@[simp] theorem raise_exitStatus (c : Cause) (n : Int) (s : State) : (raise c n s).exitStatus = some .failure := rfl
@[simp] theorem raise_draws (c : Cause) (n : Int) (s : State) : (raise c n s).draws = s.draws := rfl

/-! ## send -/

@[simp] theorem send_pc (r : Request) (s : State) : (send r s).pc = s.pc := rfl
@[simp] theorem send_ac (r : Request) (s : State) : (send r s).ac = s.ac := rfl
@[simp] theorem send_x (r : Request) (s : State) : (send r s).x = s.x := rfl
@[simp] theorem send_y (r : Request) (s : State) : (send r s).y = s.y := rfl
@[simp] theorem send_usp (r : Request) (s : State) : (send r s).usp = s.usp := rfl
@[simp] theorem send_ssp (r : Request) (s : State) : (send r s).ssp = s.ssp := rfl
@[simp] theorem send_mode (r : Request) (s : State) : (send r s).mode = s.mode := rfl
@[simp] theorem send_timer (r : Request) (s : State) : (send r s).timer = s.timer := rfl
@[simp] theorem send_run (r : Request) (s : State) : (send r s).run = s.run := rfl
@[simp] theorem send_fault (r : Request) (s : State) : (send r s).fault = s.fault := rfl
@[simp] theorem send_interval (r : Request) (s : State) : (send r s).interval = s.interval := rfl
@[simp] theorem send_mem (r : Request) (s : State) : (send r s).mem = s.mem := rfl
@[simp] theorem send_engine (r : Request) (s : State) : (send r s).engine = s.engine := rfl
@[simp] theorem send_lapse (r : Request) (s : State) : (send r s).lapse = s.lapse := rfl
@[simp] theorem send_requests (r : Request) (s : State) : (send r s).requests = s.requests ++ [r] := rfl
@[simp] theorem send_emissions (r : Request) (s : State) : (send r s).emissions = s.emissions := rfl
@[simp] theorem send_exitStatus (r : Request) (s : State) : (send r s).exitStatus = s.exitStatus := rfl
@[simp] theorem send_draws (r : Request) (s : State) : (send r s).draws = s.draws := rfl

/-! ## emit -/

@[simp] theorem emit_pc (k : EventKind) (v : Word) (s : State) : (emit k v s).pc = s.pc := rfl
@[simp] theorem emit_ac (k : EventKind) (v : Word) (s : State) : (emit k v s).ac = s.ac := rfl
@[simp] theorem emit_x (k : EventKind) (v : Word) (s : State) : (emit k v s).x = s.x := rfl
@[simp] theorem emit_y (k : EventKind) (v : Word) (s : State) : (emit k v s).y = s.y := rfl
@[simp] theorem emit_usp (k : EventKind) (v : Word) (s : State) : (emit k v s).usp = s.usp := rfl
@[simp] theorem emit_ssp (k : EventKind) (v : Word) (s : State) : (emit k v s).ssp = s.ssp := rfl
@[simp] theorem emit_mode (k : EventKind) (v : Word) (s : State) : (emit k v s).mode = s.mode := rfl
@[simp] theorem emit_timer (k : EventKind) (v : Word) (s : State) : (emit k v s).timer = s.timer := rfl
@[simp] theorem emit_run (k : EventKind) (v : Word) (s : State) : (emit k v s).run = s.run := rfl
@[simp] theorem emit_fault (k : EventKind) (v : Word) (s : State) : (emit k v s).fault = s.fault := rfl
@[simp] theorem emit_interval (k : EventKind) (v : Word) (s : State) : (emit k v s).interval = s.interval := rfl
@[simp] theorem emit_mem (k : EventKind) (v : Word) (s : State) : (emit k v s).mem = s.mem := rfl
@[simp] theorem emit_engine (k : EventKind) (v : Word) (s : State) : (emit k v s).engine = s.engine := rfl
@[simp] theorem emit_lapse (k : EventKind) (v : Word) (s : State) : (emit k v s).lapse = s.lapse := rfl
@[simp] theorem emit_requests (k : EventKind) (v : Word) (s : State) : (emit k v s).requests = s.requests := rfl
@[simp] theorem emit_emissions (k : EventKind) (v : Word) (s : State) : (emit k v s).emissions = s.emissions ++ [⟨k, v⟩] := rfl
@[simp] theorem emit_exitStatus (k : EventKind) (v : Word) (s : State) : (emit k v s).exitStatus = s.exitStatus := rfl
@[simp] theorem emit_draws (k : EventKind) (v : Word) (s : State) : (emit k v s).draws = s.draws := rfl

/-! ## tick -/

@[simp] theorem tick_pc (s : State) : (tick s).pc = s.pc := rfl
@[simp] theorem tick_ac (s : State) : (tick s).ac = s.ac := rfl
@[simp] theorem tick_x (s : State) : (tick s).x = s.x := rfl
@[simp] theorem tick_y (s : State) : (tick s).y = s.y := rfl
@[simp] theorem tick_usp (s : State) : (tick s).usp = s.usp := rfl
@[simp] theorem tick_ssp (s : State) : (tick s).ssp = s.ssp := rfl
@[simp] theorem tick_mode (s : State) : (tick s).mode = s.mode := rfl
@[simp] theorem tick_timer (s : State) : (tick s).timer = wrap (s.timer.toInt - 1) := rfl
@[simp] theorem tick_run (s : State) : (tick s).run = s.run := rfl
@[simp] theorem tick_fault (s : State) : (tick s).fault = s.fault := rfl
@[simp] theorem tick_interval (s : State) : (tick s).interval = s.interval := rfl
@[simp] theorem tick_mem (s : State) : (tick s).mem = s.mem := rfl
@[simp] theorem tick_engine (s : State) : (tick s).engine = s.engine := rfl
@[simp] theorem tick_lapse (s : State) : (tick s).lapse = s.lapse := rfl
@[simp] theorem tick_requests (s : State) : (tick s).requests = s.requests := rfl
@[simp] theorem tick_emissions (s : State) : (tick s).emissions = s.emissions := rfl
@[simp] theorem tick_exitStatus (s : State) : (tick s).exitStatus = s.exitStatus := rfl
@[simp] theorem tick_draws (s : State) : (tick s).draws = s.draws := rfl

/-! ## setSp -/

@[simp] theorem setSp_pc (s : State) (v : Word) : (s.setSp v).pc = s.pc := by unfold State.setSp; split <;> rfl
@[simp] theorem setSp_ac (s : State) (v : Word) : (s.setSp v).ac = s.ac := by unfold State.setSp; split <;> rfl
@[simp] theorem setSp_x (s : State) (v : Word) : (s.setSp v).x = s.x := by unfold State.setSp; split <;> rfl
@[simp] theorem setSp_y (s : State) (v : Word) : (s.setSp v).y = s.y := by unfold State.setSp; split <;> rfl
@[simp] theorem setSp_mode (s : State) (v : Word) : (s.setSp v).mode = s.mode := by unfold State.setSp; split <;> rfl
@[simp] theorem setSp_timer (s : State) (v : Word) : (s.setSp v).timer = s.timer := by unfold State.setSp; split <;> rfl
@[simp] theorem setSp_run (s : State) (v : Word) : (s.setSp v).run = s.run := by unfold State.setSp; split <;> rfl
@[simp] theorem setSp_fault (s : State) (v : Word) : (s.setSp v).fault = s.fault := by unfold State.setSp; split <;> rfl
@[simp] theorem setSp_interval (s : State) (v : Word) : (s.setSp v).interval = s.interval := by unfold State.setSp; split <;> rfl
@[simp] theorem setSp_mem (s : State) (v : Word) : (s.setSp v).mem = s.mem := by unfold State.setSp; split <;> rfl
@[simp] theorem setSp_engine (s : State) (v : Word) : (s.setSp v).engine = s.engine := by unfold State.setSp; split <;> rfl
@[simp] theorem setSp_lapse (s : State) (v : Word) : (s.setSp v).lapse = s.lapse := by unfold State.setSp; split <;> rfl
@[simp] theorem setSp_requests (s : State) (v : Word) : (s.setSp v).requests = s.requests := by unfold State.setSp; split <;> rfl
@[simp] theorem setSp_emissions (s : State) (v : Word) : (s.setSp v).emissions = s.emissions := by unfold State.setSp; split <;> rfl
@[simp] theorem setSp_exitStatus (s : State) (v : Word) : (s.setSp v).exitStatus = s.exitStatus := by unfold State.setSp; split <;> rfl
@[simp] theorem setSp_draws (s : State) (v : Word) : (s.setSp v).draws = s.draws := by unfold State.setSp; split <;> rfl

/-! ## awaitExited -/

@[simp] theorem awaitExited_pc (s : State) : (awaitExited s).pc = s.pc := by unfold awaitExited; split <;> rfl
@[simp] theorem awaitExited_ac (s : State) : (awaitExited s).ac = s.ac := by unfold awaitExited; split <;> rfl
@[simp] theorem awaitExited_x (s : State) : (awaitExited s).x = s.x := by unfold awaitExited; split <;> rfl
@[simp] theorem awaitExited_y (s : State) : (awaitExited s).y = s.y := by unfold awaitExited; split <;> rfl
@[simp] theorem awaitExited_usp (s : State) : (awaitExited s).usp = s.usp := by unfold awaitExited; split <;> rfl
@[simp] theorem awaitExited_ssp (s : State) : (awaitExited s).ssp = s.ssp := by unfold awaitExited; split <;> rfl
@[simp] theorem awaitExited_mode (s : State) : (awaitExited s).mode = s.mode := by unfold awaitExited; split <;> rfl
@[simp] theorem awaitExited_timer (s : State) : (awaitExited s).timer = s.timer := by unfold awaitExited; split <;> rfl
@[simp] theorem awaitExited_fault (s : State) : (awaitExited s).fault = s.fault := by unfold awaitExited; split <;> rfl
@[simp] theorem awaitExited_interval (s : State) : (awaitExited s).interval = s.interval := by unfold awaitExited; split <;> rfl
@[simp] theorem awaitExited_mem (s : State) : (awaitExited s).mem = s.mem := by unfold awaitExited; split <;> rfl
@[simp] theorem awaitExited_requests (s : State) : (awaitExited s).requests = s.requests := by unfold awaitExited; split <;> rfl
@[simp] theorem awaitExited_emissions (s : State) : (awaitExited s).emissions = s.emissions := by unfold awaitExited; split <;> rfl
@[simp] theorem awaitExited_draws (s : State) : (awaitExited s).draws = s.draws := by unfold awaitExited; split <;> rfl

/-- R194: with a Memory Engine that exits the run has ended with success. -/
theorem awaitExited_exits (s : State) (h : s.lapse.exits = true) :
    awaitExited s = { s with engine := .exited, run := .exited, exitStatus := some .success } := by
  simp [awaitExited, h]

/-- R65: with one that never exits nothing changes. -/
theorem awaitExited_stays (s : State) (h : s.lapse.exits = false) : awaitExited s = s := by
  simp [awaitExited, h]

/-- R65: only a Memory Engine that breaks the promise of R57 never exits. -/
theorem Lapse.exits_iff (l : Lapse) : l.exits = true ↔ l ≠ .neverExits := by
  cases l <;> simp [Lapse.exits]

@[simp] theorem Lapse.exits_none : Lapse.none.exits = true := rfl
@[simp] theorem Lapse.exits_neverReady : Lapse.neverReady.exits = true := rfl
@[simp] theorem Lapse.exits_neverAnswers (n : Nat) : (Lapse.neverAnswers n).exits = true := rfl
@[simp] theorem Lapse.exits_neverExits : Lapse.neverExits.exits = false := rfl

/-- R28: in user mode the write goes to USP alone. -/
theorem setSp_user (s : State) (v : Word) (h : s.mode = .user) : s.setSp v = { s with usp := v } := by
  simp [State.setSp, h]

/-- R28: in system mode the write goes to SSP alone. -/
theorem setSp_system (s : State) (v : Word) (h : s.mode = .system) : s.setSp v = { s with ssp := v } := by
  simp [State.setSp, h]

/-- R28: in user mode SP is USP. -/
theorem sp_user (s : State) (h : s.mode = .user) : s.sp = s.usp := by simp [State.sp, h]

/-- R28: in system mode SP is SSP. -/
theorem sp_system (s : State) (h : s.mode = .system) : s.sp = s.ssp := by simp [State.sp, h]

/-- A write of SP is what a read of SP then gives. -/
@[simp] theorem sp_setSp (s : State) (v : Word) : (s.setSp v).sp = v := by
  cases h : s.mode <;> simp [State.setSp, State.sp, h]

/-- Writing back what SP holds changes nothing. -/
@[simp] theorem setSp_sp (s : State) : s.setSp s.sp = s := by
  rcases s with ⟨_, _, _, _, _, _, m, _⟩
  cases m <;> rfl

@[simp] theorem raise_sp (c : Cause) (n : Int) (s : State) : (raise c n s).sp = s.sp := rfl
@[simp] theorem send_sp (r : Request) (s : State) : (send r s).sp = s.sp := rfl
@[simp] theorem emit_sp (k : EventKind) (v : Word) (s : State) : (emit k v s).sp = s.sp := rfl
@[simp] theorem tick_sp (s : State) : (tick s).sp = s.sp := rfl

end Sys2Proof.Machine
end

