-- ==== Sys2Proof/Laws/Ops.lean ====
section
/-! SUPPORT. One lemma per shared operation saying what it answers, inside the address space and outside it. -/

namespace Sys2Proof.Machine

/-! ## Words and integers -/

@[simp] theorem wrap_toInt (w : Word) : wrap w.toInt = w := BitVec.ofInt_toInt

theorem toInt_wrap (v : Int) : (wrap v).toInt = v.bmod 4294967296 := by
  simp [wrap, BitVec.toInt_ofInt]

/-- A value in the range of a word is kept by `wrap`. -/
theorem toInt_wrap_of_range (v : Int) (h : -2147483648 ≤ v) (h' : v < 2147483648) : (wrap v).toInt = v := by
  rw [toInt_wrap, Int.bmod_def]
  omega

theorem toInt_range (w : Word) : -2147483648 ≤ w.toInt ∧ w.toInt < 2147483648 := by
  have h := BitVec.toInt_lt (x := w)
  have h' := BitVec.le_toInt (x := w)
  constructor <;> simpa using by assumption

theorem wrap_add (w v : Word) : wrap (w.toInt + v.toInt) = w + v := by
  simp [wrap, BitVec.ofInt_add]

theorem wrap_sub (w v : Word) : wrap (w.toInt - v.toInt) = w - v := by
  apply BitVec.eq_of_toInt_eq
  simp [toInt_wrap, BitVec.toInt_sub]

theorem wrap_add_one (w : Word) : wrap (w.toInt + 1) = w + 1#32 := wrap_add w 1

theorem wrap_sub_one (w : Word) : wrap (w.toInt - 1) = w - 1#32 := wrap_sub w 1

/-- A non-negative word is its unsigned value. -/
theorem toInt_eq_toNat (w : Word) (h : 0 ≤ w.toInt) : w.toInt = w.toNat := by
  have := w.isLt
  rw [BitVec.toInt_eq_toNat_cond] at h ⊢
  split at h <;> split <;> omega

theorem toNat_toInt (w : Word) (h : 0 ≤ w.toInt) : w.toInt.toNat = w.toNat := by
  have := toInt_eq_toNat w h
  omega

/-- Adding one to a word below the top. -/
theorem toInt_add_one (w : Word) (h : w.toInt < 2147483647) : (w + 1#32).toInt = w.toInt + 1 := by
  rw [← wrap_add_one]
  have := toInt_range w
  exact toInt_wrap_of_range _ (by omega) (by omega)

/-- Taking one from a word above the bottom. -/
theorem toInt_sub_one (w : Word) (h : -2147483648 < w.toInt) : (w - 1#32).toInt = w.toInt - 1 := by
  rw [← wrap_sub_one]
  have := toInt_range w
  exact toInt_wrap_of_range _ (by omega) (by omega)

/-! ## Sequencing -/

@[simp] theorem Ran.andThen_done {α β : Type} (v : α) (s : State) (k : α → State → Ran β) :
    (Ran.done v s).andThen k = k v s := rfl

@[simp] theorem Ran.andThen_raised {α β : Type} (s : State) (k : α → State → Ran β) :
    (Ran.raised s).andThen k = .raised s := rfl

@[simp] theorem Ran.leaves_done (v : Unit) (s : State) : (Ran.done v s).leaves = .next s := rfl

@[simp] theorem Ran.leaves_raised (s : State) : (Ran.raised s).leaves = .next s := rfl

/-- A sequence that is done was done in both its parts. -/
theorem Ran.andThen_eq_done {α β : Type} {r : Ran α} {k : α → State → Ran β} {v : β} {s : State}
    (h : r.andThen k = .done v s) : ∃ u t, r = .done u t ∧ k u t = .done v s := by
  cases r with
  | done u t => exact ⟨u, t, rfl, h⟩
  | raised t => cases h

/-! ## Round trips -/

theorem inRange_iff (a : Int) : inRange a = true ↔ 0 ≤ a ∧ a ≤ 1999 := by simp [inRange]

/-- R61. -/
theorem memRead_in {a : Int} (s : State) (h : 0 ≤ a) (h' : a ≤ 1999) :
    memRead a s = .done (Memory.read s.mem a.toNat) (send (.read a) s) := by
  simp [memRead, inRange, h, h']

/-- R60. -/
theorem memRead_out {a : Int} (s : State) (h : ¬(0 ≤ a ∧ a ≤ 1999)) :
    memRead a s = .raised (raise .addressRange a s) := by
  simp only [memRead, inRange, decide_eq_true_eq, h, if_false]

/-- R62. -/
theorem memWrite_in {a : Int} (v : Word) (s : State) (h : 0 ≤ a) (h' : a ≤ 1999) :
    memWrite a v s = .done () { send (.write a v) s with mem := Memory.write s.mem a.toNat v } := by
  simp [memWrite, inRange, h, h']

/-- R60. -/
theorem memWrite_out {a : Int} (v : Word) (s : State) (h : ¬(0 ≤ a ∧ a ≤ 1999)) :
    memWrite a v s = .raised (raise .addressRange a s) := by
  simp only [memWrite, inRange, decide_eq_true_eq, h, if_false]

/-! ## Fetch, push, pop -/

/-- R104. -/
theorem fetchWord_in (s : State) (h : 0 ≤ s.pc.toInt) (h' : s.pc.toInt ≤ 1999) :
    fetchWord s = .done (Memory.read s.mem s.pc.toNat) { send (.read s.pc.toInt) s with pc := s.pc + 1#32 } := by
  simp [fetchWord, memRead_in s h h', toNat_toInt _ h, wrap_add_one]

/-- R104: PC is not incremented when the range check fails. -/
theorem fetchWord_out (s : State) (h : ¬(0 ≤ s.pc.toInt ∧ s.pc.toInt ≤ 1999)) :
    fetchWord s = .raised (raise .addressRange s.pc.toInt s) := by
  simp [fetchWord, memRead_out s h]

/-- R180. -/
theorem pushWord_in (v : Word) (s : State) (h : 1 ≤ s.sp.toInt) (h' : s.sp.toInt ≤ 2000) :
    pushWord v s = .done () { send (.write (s.sp.toInt - 1) v) (s.setSp (s.sp - 1#32)) with
      mem := Memory.write s.mem (s.sp.toInt - 1).toNat v } := by
  have h1 : 0 ≤ s.sp.toInt - 1 := by omega
  have h2 : s.sp.toInt - 1 ≤ 1999 := by omega
  simp only [pushWord, (inRange_iff _).2 ⟨h1, h2⟩, if_true, memWrite_in v _ h1 h2, wrap_sub_one, setSp_mem]

/-- R180: the range check comes before any update. -/
theorem pushWord_out (v : Word) (s : State) (h : ¬(1 ≤ s.sp.toInt ∧ s.sp.toInt ≤ 2000)) :
    pushWord v s = .raised (raise .addressRange (s.sp.toInt - 1) s) := by
  have h1 : inRange (s.sp.toInt - 1) = false := by
    simp only [inRange, decide_eq_false_iff_not]; omega
  simp [pushWord, h1]

/-- R181. -/
theorem popWord_in (s : State) (h : 0 ≤ s.sp.toInt) (h' : s.sp.toInt ≤ 1999) :
    popWord s = .done (Memory.read s.mem s.sp.toNat) ((send (.read s.sp.toInt) s).setSp (s.sp + 1#32)) := by
  simp [popWord, memRead_in s h h', toNat_toInt _ h, wrap_add_one]

/-- R181: SP is unchanged when the range check fails. -/
theorem popWord_out (s : State) (h : ¬(0 ≤ s.sp.toInt ∧ s.sp.toInt ≤ 1999)) :
    popWord s = .raised (raise .addressRange s.sp.toInt s) := by
  simp [popWord, memRead_out s h]

/-! ## The stack-pointer relative read -/

/-- R126: the bound comes first. -/
theorem readStack_bound (s : State) (h : 999 ≤ stackAddr s) :
    readStack s = .raised (raise .stackBound (stackAddr s) s) := by
  rw [readStack, if_pos (show stackAddr s ≥ Config.stackBound from h)]

/-- R126: below the bound it is an ordinary read. -/
theorem readStack_below (s : State) (h : stackAddr s < 999) : readStack s = memRead (stackAddr s) s := by
  rw [readStack, if_neg (show ¬ stackAddr s ≥ Config.stackBound from not_le.2 h)]

/-! ## The access check -/

/-- R71: the access check only ever appends to the emission trace. -/
theorem checkMemAccess_eq (a : Word) (s : State) :
    checkMemAccess a s =
      { s with emissions := s.emissions ++
          if s.sp.toInt < 1000 ∧ 1000 ≤ a.toInt then [⟨.diagViolation, a⟩] else [] } := by
  unfold checkMemAccess
  by_cases h : s.sp.toInt < 1000 ∧ 1000 ≤ a.toInt
  · rw [if_pos h, if_pos h]; rfl
  · rw [if_neg h, if_neg h]; simp

/-! ## What each operation can do to memory -/

/-- A round trip that is done leaves memory in canonical form. -/
theorem memWrite_wf {a : Int} {v : Word} {s t : State} (hs : Memory.wf s.mem) (h : memWrite a v s = .done () t) :
    Memory.wf t.mem := by
  by_cases ha : 0 ≤ a ∧ a ≤ 1999
  · rw [memWrite_in v s ha.1 ha.2] at h
    cases h
    exact Memory.write_wf _ _ _ hs (by simp only [Config.memWords]; omega)
  · rw [memWrite_out v s ha] at h
    cases h

/-- A read leaves memory as it is. -/
theorem memRead_mem {a : Int} {w : Word} {s t : State} (h : memRead a s = .done w t) : t.mem = s.mem := by
  by_cases ha : 0 ≤ a ∧ a ≤ 1999
  · rw [memRead_in s ha.1 ha.2] at h
    cases h; rfl
  · rw [memRead_out s ha] at h
    cases h

/-! ## Halt -/

/-- R194: with a Memory Engine that exits after TERMINATE. -/
theorem halt_exits (s : State) (h : s.lapse.exits = true) :
    halt s = { s with
      run := .exited, exitStatus := some .success, engine := .exited, requests := s.requests ++ [.terminate] } :=
  awaitExited_exits _ h

/-- R194, R65: with one that never exits. -/
theorem halt_stays (s : State) (h : s.lapse.exits = false) :
    halt s = { s with run := .halting, requests := s.requests ++ [.terminate] } :=
  awaitExited_stays _ h

/-! ## The random source -/

/-- R142: a draw is in `1..100`, whatever the source gives. -/
theorem drawValue_range (n : Nat) : 1 ≤ (drawValue n).toInt ∧ (drawValue n).toInt ≤ 100 := by
  have h := (Config.draw n).isLt
  have h1 : (drawValue n).toNat = (Config.draw n).val + 1 := by
    simp only [drawValue, BitVec.toNat_ofNat]; omega
  have h2 : (drawValue n).toInt = (drawValue n).toNat := by
    rw [BitVec.toInt_eq_toNat_cond, if_pos (by omega)]
  omega

/-- R14: the failure exit status is not 0, whatever it is. -/
theorem exitFailureCode_ne_zero : Config.exitFailureCode ≠ 0 := by
  unfold Config.exitFailureCode
  split <;> simp_all

end Sys2Proof.Machine
end

