-- ==== Sys2Proof/Laws/PerInstr.lean ====
section
/-! SUPPORT. One lemma per instruction about its words: the opcode word finds one row of the table, and the row builds the instruction
back from the operand. -/

namespace Sys2Proof.Laws.Encoding

/-- The table's row of the instruction's opcode word builds the instruction, and its format says whether there is an operand. -/
def Statement (i : Instr) : Prop :=
  ∃ r, lookupOpcode i.opcodeWord = some r ∧
    (r.format = .n ∧ i.operand? = none ∧ r.build 0 = i ∨
      r.format = .a ∧ ∃ v, i.operand? = some v ∧ r.build v = i)

theorem loadValue (v : Word) : Statement (.loadValue v) := ⟨rowA 1 .loadValue, by rw [Instr.opcodeWord]; rfl, .inr ⟨rfl, v, rfl, rfl⟩⟩
theorem loadAddr (a : Word) : Statement (.loadAddr a) := ⟨rowA 2 .loadAddr, by rw [Instr.opcodeWord]; rfl, .inr ⟨rfl, a, rfl, rfl⟩⟩
theorem loadindAddr (a : Word) : Statement (.loadindAddr a) := ⟨rowA 3 .loadindAddr, by rw [Instr.opcodeWord]; rfl, .inr ⟨rfl, a, rfl, rfl⟩⟩
theorem loadidxX (a : Word) : Statement (.loadidxX a) := ⟨rowA 4 .loadidxX, by rw [Instr.opcodeWord]; rfl, .inr ⟨rfl, a, rfl, rfl⟩⟩
theorem loadidxY (a : Word) : Statement (.loadidxY a) := ⟨rowA 5 .loadidxY, by rw [Instr.opcodeWord]; rfl, .inr ⟨rfl, a, rfl, rfl⟩⟩
theorem loadSpx : Statement .loadSpx := ⟨rowN 6 .loadSpx, by rw [Instr.opcodeWord]; rfl, .inl ⟨rfl, rfl, rfl⟩⟩
theorem storeAddr (a : Word) : Statement (.storeAddr a) := ⟨rowA 7 .storeAddr, by rw [Instr.opcodeWord]; rfl, .inr ⟨rfl, a, rfl, rfl⟩⟩
theorem get : Statement .get := ⟨rowN 8 .get, by rw [Instr.opcodeWord]; rfl, .inl ⟨rfl, rfl, rfl⟩⟩
theorem put (p : Word) : Statement (.put p) := ⟨rowA 9 .put, by rw [Instr.opcodeWord]; rfl, .inr ⟨rfl, p, rfl, rfl⟩⟩
theorem addX : Statement .addX := ⟨rowN 10 .addX, by rw [Instr.opcodeWord]; rfl, .inl ⟨rfl, rfl, rfl⟩⟩
theorem addY : Statement .addY := ⟨rowN 11 .addY, by rw [Instr.opcodeWord]; rfl, .inl ⟨rfl, rfl, rfl⟩⟩
theorem subX : Statement .subX := ⟨rowN 12 .subX, by rw [Instr.opcodeWord]; rfl, .inl ⟨rfl, rfl, rfl⟩⟩
theorem subY : Statement .subY := ⟨rowN 13 .subY, by rw [Instr.opcodeWord]; rfl, .inl ⟨rfl, rfl, rfl⟩⟩
theorem copyToX : Statement .copyToX := ⟨rowN 14 .copyToX, by rw [Instr.opcodeWord]; rfl, .inl ⟨rfl, rfl, rfl⟩⟩
theorem copyFromX : Statement .copyFromX := ⟨rowN 15 .copyFromX, by rw [Instr.opcodeWord]; rfl, .inl ⟨rfl, rfl, rfl⟩⟩
theorem copyToY : Statement .copyToY := ⟨rowN 16 .copyToY, by rw [Instr.opcodeWord]; rfl, .inl ⟨rfl, rfl, rfl⟩⟩
theorem copyFromY : Statement .copyFromY := ⟨rowN 17 .copyFromY, by rw [Instr.opcodeWord]; rfl, .inl ⟨rfl, rfl, rfl⟩⟩
theorem copyToSp : Statement .copyToSp := ⟨rowN 18 .copyToSp, by rw [Instr.opcodeWord]; rfl, .inl ⟨rfl, rfl, rfl⟩⟩
theorem copyFromSp : Statement .copyFromSp := ⟨rowN 19 .copyFromSp, by rw [Instr.opcodeWord]; rfl, .inl ⟨rfl, rfl, rfl⟩⟩
theorem jump (a : Word) : Statement (.jump a) := ⟨rowA 20 .jump, by rw [Instr.opcodeWord]; rfl, .inr ⟨rfl, a, rfl, rfl⟩⟩
theorem jumpIfZero (a : Word) : Statement (.jumpIfZero a) := ⟨rowA 21 .jumpIfZero, by rw [Instr.opcodeWord]; rfl, .inr ⟨rfl, a, rfl, rfl⟩⟩
theorem jumpIfNonzero (a : Word) : Statement (.jumpIfNonzero a) := ⟨rowA 22 .jumpIfNonzero, by rw [Instr.opcodeWord]; rfl, .inr ⟨rfl, a, rfl, rfl⟩⟩
theorem call (a : Word) : Statement (.call a) := ⟨rowA 23 .call, by rw [Instr.opcodeWord]; rfl, .inr ⟨rfl, a, rfl, rfl⟩⟩
theorem ret : Statement .ret := ⟨rowN 24 .ret, by rw [Instr.opcodeWord]; rfl, .inl ⟨rfl, rfl, rfl⟩⟩
theorem incX : Statement .incX := ⟨rowN 25 .incX, by rw [Instr.opcodeWord]; rfl, .inl ⟨rfl, rfl, rfl⟩⟩
theorem decX : Statement .decX := ⟨rowN 26 .decX, by rw [Instr.opcodeWord]; rfl, .inl ⟨rfl, rfl, rfl⟩⟩
theorem push : Statement .push := ⟨rowN 27 .push, by rw [Instr.opcodeWord]; rfl, .inl ⟨rfl, rfl, rfl⟩⟩
theorem pop : Statement .pop := ⟨rowN 28 .pop, by rw [Instr.opcodeWord]; rfl, .inl ⟨rfl, rfl, rfl⟩⟩
theorem int : Statement .int := ⟨rowN 29 .int, by rw [Instr.opcodeWord]; rfl, .inl ⟨rfl, rfl, rfl⟩⟩
theorem iret : Statement .iret := ⟨rowN 30 .iret, by rw [Instr.opcodeWord]; rfl, .inl ⟨rfl, rfl, rfl⟩⟩
theorem endRun : Statement .endRun := ⟨rowN 50 .endRun, by rw [Instr.opcodeWord]; rfl, .inl ⟨rfl, rfl, rfl⟩⟩

end Sys2Proof.Laws.Encoding
end

