-- ==== Sys2Proof/Laws/Step.lean ====
section
/-! SUPPORT. What a step can do, said once: the trap entry and return, the fetch of an instruction, the preemption check, and the
inversion of a step by RUN. -/

namespace Sys2Proof.Machine

/-- What came of a sequence: raised in its first part, or what its second part answered. -/
theorem Ran.andThen_eq_raised {α β : Type} {r : Ran α} {k : α → State → Ran β} {t : State}
    (h : r.andThen k = .raised t) : r = .raised t ∨ ∃ v u, r = .done v u ∧ k v u = .raised t := by
  cases r with
  | done v u => exact .inr ⟨v, u, rfl, h⟩
  | raised u => exact .inl (by cases h; rfl)

/-! ## Fetch -/

/-- R104: a fetch, done or raised, by the address in PC. -/
theorem fetchWord_cases (s : State) :
    (0 ≤ s.pc.toInt ∧ s.pc.toInt ≤ 1999 ∧
      fetchWord s = .done (Memory.read s.mem s.pc.toNat)
        { s with pc := s.pc + 1#32, requests := s.requests ++ [.read s.pc.toInt] }) ∨
    (¬(0 ≤ s.pc.toInt ∧ s.pc.toInt ≤ 1999) ∧ fetchWord s = .raised (raise .addressRange s.pc.toInt s)) := by
  by_cases h : 0 ≤ s.pc.toInt ∧ s.pc.toInt ≤ 1999
  · exact .inl ⟨h.1, h.2, fetchWord_in s h.1 h.2⟩
  · exact .inr ⟨h, fetchWord_out s h⟩

/-- R104, R107: a fetch that is done has changed PC and the request trace alone; the instruction is the one the word at PC selects. -/
theorem fetchInstr_done {s t : State} {i : Instr} (h : fetchInstr s = .done i t) :
    0 ≤ s.pc.toInt ∧ s.pc.toInt ≤ 1999 ∧
    ∃ r, lookupOpcode (Memory.read s.mem s.pc.toNat) = some r ∧
      ((r.format = .n ∧ i = r.build 0 ∧
          t = { s with pc := s.pc + 1#32, requests := s.requests ++ [.read s.pc.toInt] }) ∨
        (r.format = .a ∧ 0 ≤ (s.pc + 1#32).toInt ∧ (s.pc + 1#32).toInt ≤ 1999 ∧
          i = r.build (Memory.read s.mem (s.pc + 1#32).toNat) ∧
          t = { s with
            pc := s.pc + 1#32 + 1#32
            requests := s.requests ++ [.read s.pc.toInt, .read (s.pc + 1#32).toInt] })) := by
  rcases fetchWord_cases s with ⟨h0, h1, e⟩ | ⟨-, e⟩
  · refine ⟨h0, h1, ?_⟩
    simp only [fetchInstr, e, Ran.andThen_done] at h
    split at h
    · cases h
    · rename_i r hr
      refine ⟨r, hr, ?_⟩
      split at h
      · rename_i hf
        cases h
        exact .inl ⟨hf, rfl, rfl⟩
      · rename_i hf
        rcases fetchWord_cases
          { s with pc := s.pc + 1#32, requests := s.requests ++ [.read s.pc.toInt] } with ⟨h2, h3, e'⟩ | ⟨-, e'⟩
        · simp only [e', Ran.andThen_done] at h
          cases h
          exact .inr ⟨hf, h2, h3, rfl, by simp⟩
        · simp [e'] at h
  · simp [fetchInstr, e] at h

/-- A fetch that raised: which messages went out, what PC is left at, and the fault. -/
theorem fetchInstr_raised {s t : State} (h : fetchInstr s = .raised t) :
    (¬(0 ≤ s.pc.toInt ∧ s.pc.toInt ≤ 1999) ∧ t = raise .addressRange s.pc.toInt s) ∨
    (0 ≤ s.pc.toInt ∧ s.pc.toInt ≤ 1999 ∧ ∃ c n, c ≠ .none ∧
      t = raise c n { s with pc := s.pc + 1#32, requests := s.requests ++ [.read s.pc.toInt] }) := by
  rcases fetchWord_cases s with ⟨h0, h1, e⟩ | ⟨h0, e⟩
  · refine .inr ⟨h0, h1, ?_⟩
    simp only [fetchInstr, e, Ran.andThen_done] at h
    split at h
    · cases h
      exact ⟨_, _, by simp, rfl⟩
    · split at h
      · cases h
      · rcases fetchWord_cases
          { s with pc := s.pc + 1#32, requests := s.requests ++ [.read s.pc.toInt] } with ⟨-, -, e'⟩ | ⟨-, e'⟩
        · simp [e'] at h
        · simp only [e', Ran.andThen_raised] at h
          cases h
          exact ⟨_, _, by simp, rfl⟩
  · simp only [fetchInstr, e, Ran.andThen_raised] at h
    cases h
    exact .inl ⟨h0, rfl⟩

/-! ## Trap entry -/

/-- R224: the three ways a trap entry can go, by SSP: both pushes done, the second raised, the first raised. -/
theorem trapEntry_cases (v : Word) (s : State) :
    (2 ≤ s.ssp.toInt ∧ s.ssp.toInt ≤ 2000 ∧
      trapEntry v s = .done () { s with
        mode := .system, pc := v, ssp := s.ssp - 1#32 - 1#32
        mem := Memory.write (Memory.write s.mem (s.ssp.toInt - 1).toNat s.pc) (s.ssp.toInt - 2).toNat s.usp
        requests := s.requests ++ [.write (s.ssp.toInt - 1) s.pc, .write (s.ssp.toInt - 2) s.usp] }) ∨
    (s.ssp.toInt = 1 ∧
      trapEntry v s = .raised (raise .addressRange (-1) { s with
        mode := .system, ssp := s.ssp - 1#32
        mem := Memory.write s.mem 0 s.pc, requests := s.requests ++ [.write 0 s.pc] })) ∨
    (¬(1 ≤ s.ssp.toInt ∧ s.ssp.toInt ≤ 2000) ∧
      trapEntry v s = .raised (raise .addressRange (s.ssp.toInt - 1) { s with mode := .system })) := by
  by_cases h : 1 ≤ s.ssp.toInt ∧ s.ssp.toInt ≤ 2000
  · have e := pushWord_in s.pc { s with mode := .system } (by simpa [State.sp] using h.1) (by simpa [State.sp] using h.2)
    have es : (s.ssp - 1#32).toInt = s.ssp.toInt - 1 := toInt_sub_one _ (by omega)
    simp only [State.sp, State.setSp, send] at e
    by_cases h2 : 2 ≤ s.ssp.toInt
    · refine .inl ⟨h2, h.2, ?_⟩
      have e2 := pushWord_in s.usp { s with
        mode := .system, ssp := s.ssp - 1#32
        mem := Memory.write s.mem (s.ssp.toInt - 1).toNat s.pc
        requests := s.requests ++ [.write (s.ssp.toInt - 1) s.pc] }
        (by simp only [State.sp, es]; omega) (by simp only [State.sp, es]; omega)
      simp only [State.sp, State.setSp, send, es] at e2
      have hm : s.ssp.toInt - 1 - 1 = s.ssp.toInt - 2 := by omega
      simp only [trapEntry, e, Ran.andThen_done, e2, hm, List.append_assoc, List.cons_append, List.nil_append]
    · have h1 : s.ssp.toInt = 1 := by omega
      refine .inr (.inl ⟨h1, ?_⟩)
      have e2 := pushWord_out s.usp { s with
        mode := .system, ssp := s.ssp - 1#32
        mem := Memory.write s.mem (s.ssp.toInt - 1).toNat s.pc
        requests := s.requests ++ [.write (s.ssp.toInt - 1) s.pc] }
        (by simp only [State.sp, es]; omega)
      simp only [State.sp, es] at e2
      simp only [trapEntry, e, Ran.andThen_done, e2, Ran.andThen_raised]
      simp only [h1]
      rfl
  · refine .inr (.inr ⟨h, ?_⟩)
    have e := pushWord_out s.pc { s with mode := .system } (by simpa [State.sp] using h)
    simp [trapEntry, e, State.sp]

/-! ## The step -/

/-- R102: the preemption check does nothing, or is the trap entry of the timer. -/
theorem preempt_eq (s : State) :
    preempt s = if s.timer.toInt = 0 ∧ s.mode = .user then trapEntry Config.timerVector s else .done () s := by
  simp [preempt, timerDue]

/-! ## Unanswered requests -/

/-- R65: with a Memory Engine that answers every request no cycle is stuck. -/
theorem blocked_of_answered {s : State} (t : State) (h : s.firstUnanswered = none) : blocked s t = false := by
  simp [blocked, h]

/-- R60: a cycle that sent nothing is not stuck, whatever the Memory Engine does. -/
theorem blocked_of_unsent {s t : State} (h : t.requests = s.requests) : blocked s t = false := by
  unfold blocked
  split
  · rfl
  · simp [h, List.drop_of_length_le (Nat.le_max_right _ s.requests.length)]

/-- R65, R110: a cycle is stuck exactly when one of the READs and WRITEs it sent is the first unanswered one or a later one. -/
theorem blocked_iff {s t : State} {n : Nat} (h : s.firstUnanswered = some n) :
    blocked s t = true ↔
      ∃ k r, n ≤ k ∧ s.requests.length ≤ k ∧ t.requests[k]? = some r ∧ r.op ≠ .terminate := by
  simp only [blocked, h, List.any_eq_true, decide_eq_true_eq]
  constructor
  · rintro ⟨r, hr, ho⟩
    obtain ⟨k, hk⟩ := List.mem_iff_getElem?.1 hr
    rw [List.getElem?_drop] at hk
    exact ⟨max n s.requests.length + k, r, by omega, by omega, hk, ho⟩
  · rintro ⟨k, r, h1, h2, hk, ho⟩
    refine ⟨r, List.mem_iff_getElem?.2 ⟨k - max n s.requests.length, ?_⟩, ho⟩
    rw [List.getElem?_drop, Nat.add_sub_cancel' (by omega), hk]

/-- A running unit steps by its cycle; with a Memory Engine that answers every request nothing stops it. -/
theorem step_of_answered {s : State} (hr : s.run = .running) (h : s.firstUnanswered = none) : step s = runCycle s := by
  simp only [step, hr, cycle]
  cases runCycle s <;> simp [blocked_of_answered _ h]

/-- R100, R65: a step of a running unit: no request it sent is unanswered, and either the preemption or the fetch raised, or an
instruction was fetched and executed, and the reload follows. -/
theorem step_running {s t : State} (hr : s.run = .running) (h : step s = .next t) :
    blocked s t = false ∧
    (preempt (tick s) = .raised t ∨
      ∃ u, preempt (tick s) = .done () u ∧
        (fetchInstr u = .raised t ∨ ∃ i v w, fetchInstr u = .done i v ∧ exec i v = .next w ∧ t = reload w)) := by
  simp only [step, hr, cycle] at h
  split at h
  · rename_i t' hc
    split at h
    · cases h
    · rename_i hb
      cases h
      refine ⟨Bool.eq_false_iff.2 hb, ?_⟩
      simp only [runCycle] at hc
      split at hc
      · rename_i v e
        cases hc
        rcases Ran.andThen_eq_raised e with e1 | ⟨_, u, e1, e2⟩
        · exact .inl e1
        · exact .inr ⟨u, e1, .inl e2⟩
      · rename_i i v e
        obtain ⟨_, u, e1, e2⟩ := Ran.andThen_eq_done e
        refine .inr ⟨u, e1, .inr ⟨i, v, ?_⟩⟩
        simp only [execAndReload] at hc
        split at hc
        · cases hc
          exact ⟨_, e2, ‹_›, rfl⟩
        · cases hc
        · cases hc
  · cases h
  · cases h

/-- R242: the start that answers. -/
theorem start_next {s t : State} (h : start s = .next t) : 1 ≤ s.interval.toInt ∧ t = { s with run := .running } := by
  simp only [start] at h
  split at h
  · cases h
  · cases h
    exact ⟨by omega, rfl⟩

/-- R241, R242: a step of a waiting unit that answers. -/
theorem step_waitReady {s t : State} (hr : s.run = .waitReady) (h : step s = .next t) :
    (s.engine = .populating ∧ s.lapse ≠ .neverReady ∧ t = { s with engine := .serving }) ∨
    (s.engine = .serving ∧ 1 ≤ s.interval.toInt ∧ t = { s with run := .running }) := by
  simp only [step, hr, awaitReady] at h
  split at h
  · split at h
    · cases h
    · cases h
      exact .inl ⟨‹_›, ‹_›, by rw [hr]⟩
  · exact .inr ⟨‹_›, start_next h⟩
  · cases h

/-- R194: a step of a halting unit that answers ends the run. -/
theorem step_halting {s t : State} (hr : s.run = .halting) (h : step s = .next t) :
    s.lapse.exits = true ∧ t = { s with engine := .exited, run := .exited, exitStatus := some .success } := by
  simp only [step, hr, awaitHalt] at h
  split at h
  · cases h
    exact ⟨‹_›, awaitExited_exits s ‹_›⟩
  · cases h

/-- R32: only a waiting, a running or a halting unit steps. -/
theorem step_run {s t : State} (h : step s = .next t) : s.run = .waitReady ∨ s.run = .running ∨ s.run = .halting := by
  cases hr : s.run <;> simp_all [step]

end Sys2Proof.Machine
end

