-- ==== Sys2Proof/WellFormed.lean ====
section
/-! DEFINITION. Well-formed instructions. R87: one opcode restricts its operand by value, opcode 9, whose ports are 1 and 2. Every
other operand is any word (R83); operands that are addresses are checked when they are used (R60), not here. An ill-formed `PUT`
still decodes and still has its meaning: it raises IllegalPortFault (R141). -/

namespace Sys2Proof

/-- R87: the check, instruction by instruction. -/
def Instr.wellFormed : Instr → Bool
  | .loadValue _ => true
  | .loadAddr _ => true
  | .loadindAddr _ => true
  | .loadidxX _ => true
  | .loadidxY _ => true
  | .loadSpx => true
  | .storeAddr _ => true
  | .get => true
  | .put p => p == 1 || p == 2
  | .addX => true
  | .addY => true
  | .subX => true
  | .subY => true
  | .copyToX => true
  | .copyFromX => true
  | .copyToY => true
  | .copyFromY => true
  | .copyToSp => true
  | .copyFromSp => true
  | .jump _ => true
  | .jumpIfZero _ => true
  | .jumpIfNonzero _ => true
  | .call _ => true
  | .ret => true
  | .incX => true
  | .decX => true
  | .push => true
  | .pop => true
  | .int => true
  | .iret => true
  | .endRun => true

end Sys2Proof
end

