-- ==== Sys2Proof/Tests/Slice0.lean ====
section
/-! SUPPORT. Tests: well-formedness, decoding, vectors of spec/95_test_vectors.md one step each (their ids are in the docstrings),
and a witness for the hypotheses of every obligation that has any, at the boundary values of its clauses. -/

namespace Sys2Proof.Tests

open Sys2Proof.Machine Sys2Proof.Safety

/-! ## Helpers -/

/-- The next state, when the answer is one. -/
def after (o : Host.Outcome State Fault Refusal) : Option State :=
  match o with
  | .next t => some t
  | .fault _ => none
  | .refused _ => none

theorem after_some {o : Host.Outcome State Fault Refusal} {t : State} (h : after o = some t) : o = .next t := by
  cases o <;> simp_all [after]

/-- A way to give a next state without writing it out. -/
theorem answers {o : Host.Outcome State Fault Refusal} {p : State → Bool} (h : (after o).any p = true) :
    ∃ t, o = .next t ∧ p t = true := by
  cases o <;> simp_all [after]

/-- Reset state, started, with the words given. -/
def user (m : Memory) : State := { State.reset with run := .running, engine := .serving, mem := m }

/-- In a handler at 1500, the frame pushed. -/
def handler (m : Memory) : State := { user m with mode := .system, ssp := 1997, pc := 1500 }

/-- As `user`, with a Memory Engine that answers but never exits. -/
def neverExits (m : Memory) : State := { user m with lapse := .neverExits }

/-- As `user`, with a Memory Engine that answers `n` requests and no more. -/
def answersOnly (n : Nat) (m : Memory) : State := { user m with lapse := .neverAnswers n }

/-- As `user`, with the timer interrupt due in the next cycle and SSP at `ssp`. -/
def due (ssp : Word) (m : Memory) : State := { user m with timer := 1, ssp := ssp }

theorem due_due (ssp : Word) (m : Memory) : InterruptDue (due ssp m) := ⟨rfl, rfl⟩

/-- What a faulted state shows: cause, info, PC, RUN. -/
def faultView (s : State) : Cause × Int × Word × Run := (s.fault.cause, s.fault.info, s.pc, s.run)

/-! ## Well-formedness (R87) -/

theorem test_put_1_wellFormed : (Instr.put 1).wellFormed = true := by decide
theorem test_put_2_wellFormed : (Instr.put 2).wellFormed = true := by decide
theorem test_put_3_ill_formed : (Instr.put 3).wellFormed = false := by decide
theorem test_put_0_ill_formed : (Instr.put 0).wellFormed = false := by decide

/-! ## Decoding: words written out from the opcode map (R85), every constructor -/

theorem test_decode_loads :
    decode [1, -7] = .ok (.loadValue (-7)) [] ∧ decode [2, 200] = .ok (.loadAddr 200) [] ∧
    decode [3, 300] = .ok (.loadindAddr 300) [] ∧ decode [4, 100] = .ok (.loadidxX 100) [] ∧
    decode [5, 1990] = .ok (.loadidxY 1990) [] ∧ decode [6] = .ok .loadSpx [] ∧
    decode [7, 500] = .ok (.storeAddr 500) [] := by decide

theorem test_decode_io : decode [8] = .ok .get [] ∧ decode [9, 1] = .ok (.put 1) [] := by decide

theorem test_decode_alu :
    decode [10] = .ok .addX [] ∧ decode [11] = .ok .addY [] ∧ decode [12] = .ok .subX [] ∧ decode [13] = .ok .subY [] ∧
    decode [25] = .ok .incX [] ∧ decode [26] = .ok .decX [] := by decide

theorem test_decode_copies :
    decode [14] = .ok .copyToX [] ∧ decode [15] = .ok .copyFromX [] ∧ decode [16] = .ok .copyToY [] ∧
    decode [17] = .ok .copyFromY [] ∧ decode [18] = .ok .copyToSp [] ∧ decode [19] = .ok .copyFromSp [] := by decide

theorem test_decode_control :
    decode [20, -1] = .ok (.jump (-1)) [] ∧ decode [21, 100] = .ok (.jumpIfZero 100) [] ∧
    decode [22, 7] = .ok (.jumpIfNonzero 7) [] ∧ decode [23, 30] = .ok (.call 30) [] ∧ decode [24] = .ok .ret [] := by decide

theorem test_decode_stack_system :
    decode [27] = .ok .push [] ∧ decode [28] = .ok .pop [] ∧ decode [29] = .ok .int [] ∧ decode [30] = .ok .iret [] ∧
    decode [50, 1, 5] = .ok .endRun [1, 5] := by decide

/-- E1 to E4, E6: the illegal words next to the legal ones. -/
theorem test_decode_illegal :
    decode [0] = .illegalOpcode 0 ∧ decode [31, 1] = .illegalOpcode 31 ∧ decode [49] = .illegalOpcode 49 ∧
    decode [51] = .illegalOpcode 51 ∧ decode [-1] = .illegalOpcode (-1) ∧ decode [77, 50] = .illegalOpcode 77 := by decide

theorem test_decode_short : decode [1] = .missingOperand ∧ decode [] = .noWord := by decide

/-- Only the whole word is an opcode (R80): a legal number in the low byte alone is none. -/
theorem test_decode_whole_word : decode [0x00000132, 0] = .illegalOpcode 0x00000132 := by decide

theorem test_decodeTableWord :
    decodeTableWord 32 1 = some (.loadValue 0) ∧ decodeTableWord 32 50 = some .endRun ∧
    decodeTableWord 64 (23 + 2 ^ 32 * 30) = some (.call 30) ∧ decodeTableWord 32 31 = none := by decide

/-- A step at reset with an instruction placed runs it. -/
theorem test_withFetchWord :
    (after (step (State.reset.withFetchWord 64 (1 + 2 ^ 32 * 5)))).map (fun t => (t.ac, t.pc)) = some (5, 2) ∧
    (after (step (State.reset.withFetchWord 32 25))).map (fun t => (t.x, t.pc)) = some (1, 1) ∧
    (after (step (State.reset.withFetchWord 32 50))).map (fun t => t.exitStatus) = some (some .success) := by decide

/-! ## Vectors -/

/-- L1. -/
theorem test_load_value :
    (after (step (user [(0, 1), (1, -7)]))).map (fun t => (t.ac, t.pc, t.timer, t.requests)) =
      some (-7, 2, 99, [⟨.read, 0, 0⟩, ⟨.read, 1, 0⟩]) := by decide

/-- L3: the lowest address that raises the diagnostic; L4: the highest that does not. -/
theorem test_load_addr :
    (after (step (user [(0, 2), (1, 1000), (1000, 9)]))).map (fun t => (t.ac, t.emissions)) =
      some (9, [⟨.diagViolation, 1000⟩]) ∧
    (after (step (user [(0, 2), (1, 999), (999, 4)]))).map (fun t => (t.ac, t.emissions)) = some (4, []) := by decide

/-- L8: the diagnostic stands although the read is out of range. -/
theorem test_load_addr_out_of_range :
    (after (step (user [(0, 2), (1, 2000)]))).map (fun t => (faultView t, t.ac, t.emissions)) =
      some ((.addressRange, 2000, 2, .faulted), 0, [⟨.diagViolation, 2000⟩]) := by decide

/-- L9 and L10. -/
theorem test_loadind_addr :
    (after (step (user [(0, 3), (1, 300), (300, 301), (301, 77)]))).map (fun t => t.ac) = some 77 ∧
    (after (step (user [(0, 3), (1, 300), (300, -1)]))).map faultView = some (.addressRange, -1, 2, .faulted) := by decide

/-- L12 and L15: the sum is exact. -/
theorem test_loadidx_x :
    (after (step { user [(0, 4), (1, 100), (105, 8)] with x := 5 })).map (fun t => (t.ac, t.x)) = some (8, 5) ∧
    (after (step { user [(0, 4), (1, 1)] with x := 2147483647 })).map faultView =
      some (.addressRange, 2147483648, 2, .faulted) := by decide

/-- L16 and L14. -/
theorem test_loadidx_y :
    (after (step { user [(0, 5), (1, 1503), (1500, 6)] with y := -3 })).map (fun t => (t.ac, t.emissions)) = some (6, []) ∧
    (after (step { user [(0, 5), (1, 1990)] with y := 10 })).map faultView =
      some (.addressRange, 2000, 2, .faulted) := by decide

/-- L17 and L18. -/
theorem test_load_spx :
    (after (step { user [(0, 6), (998, 11)] with usp := 997, x := 1 })).map (fun t => t.ac) = some 11 ∧
    (after (step { user [(0, 6)] with usp := 997, x := 2 })).map faultView = some (.stackBound, 999, 1, .faulted) := by decide

/-- L20 and L22: the bound comes before the range. -/
theorem test_load_spx_order :
    (after (step { user [(0, 6)] with usp := 10, x := -11 })).map faultView = some (.addressRange, -1, 1, .faulted) ∧
    (after (step { user [(0, 6)] with x := 1500 })).map faultView = some (.stackBound, 2499, 1, .faulted) := by decide

/-- L24 and L25. -/
theorem test_store_addr :
    (after (step { user [(0, 7), (1, 1700)] with ac := 33 })).map (fun t => (Memory.read t.mem 1700, t.emissions)) =
      some (33, []) ∧
    (after (step { user [(0, 7), (1, 2000)] with ac := 33 })).map faultView =
      some (.addressRange, 2000, 2, .faulted) := by decide

/-- O1: one draw is taken; its value is free. -/
theorem test_get : (after (step (user [(0, 8)]))).map (fun t => (t.draws, t.pc)) = some (1, 1) := by decide

/-- O3 and O4. -/
theorem test_put :
    (after (step { user [(0, 9), (1, 1)] with ac := -12 })).map (fun t => t.emissions) = some [⟨.outDec, -12⟩] ∧
    (after (step { user [(0, 9), (1, 2)] with ac := 65 })).map (fun t => t.emissions) = some [⟨.outChr, 65⟩] := by decide

/-- O6. -/
theorem test_put_illegal_port :
    (after (step { user [(0, 9), (1, 3)] with ac := 5 })).map (fun t => (faultView t, t.emissions)) =
      some ((.illegalPort, 3, 2, .faulted), []) := by decide

/-- O3 and O4: how the events appear (R144). -/
theorem test_render :
    renderEvent ⟨.outDec, -12⟩ = [45, 49, 50] ∧ renderEvent ⟨.outDec, 0⟩ = [48] ∧ renderEvent ⟨.outChr, 65⟩ = [65] ∧
    renderEvent ⟨.outDec, -2147483648⟩ = [45, 50, 49, 52, 55, 52, 56, 51, 54, 52, 56] := by decide

/-- L3's diagnostic: the text around is free, the address stands in it (R144). -/
theorem test_render_diagnostic :
    renderEvent ⟨.diagViolation, 1000⟩ = Config.diagnosticBefore 1000 ++ [49, 48, 48, 48] ++ Config.diagnosticAfter 1000 := by rfl

/-- A1 and A2. -/
theorem test_add_x :
    (after (step { user [(0, 10)] with ac := 7, x := 5 })).map (fun t => (t.ac, t.x)) = some (12, 5) ∧
    (after (step { user [(0, 10)] with ac := 2147483647, x := 1 })).map (fun t => t.ac) = some (-2147483648) := by decide

/-- A3. -/
theorem test_add_y : (after (step { user [(0, 11)] with ac := 7, y := -9 })).map (fun t => t.ac) = some (-2) := by decide

/-- A4 and A5. -/
theorem test_sub_x :
    (after (step { user [(0, 12)] with ac := 7, x := 5 })).map (fun t => t.ac) = some 2 ∧
    (after (step { user [(0, 12)] with ac := -2147483648, x := 1 })).map (fun t => t.ac) = some 2147483647 := by decide

/-- A6 and A7. -/
theorem test_sub_y :
    (after (step { user [(0, 13)] with ac := 5, y := 5 })).map (fun t => t.ac) = some 0 ∧
    (after (step { user [(0, 13)] with y := -2147483648 })).map (fun t => t.ac) = some (-2147483648) := by decide

/-- A8 to A11. -/
theorem test_copies :
    (after (step { user [(0, 14)] with ac := 3, x := 9 })).map (fun t => (t.ac, t.x)) = some (3, 3) ∧
    (after (step { user [(0, 15)] with ac := 3, x := 9 })).map (fun t => (t.ac, t.x)) = some (9, 9) ∧
    (after (step { user [(0, 16)] with ac := 3, y := 9 })).map (fun t => (t.ac, t.y)) = some (3, 3) ∧
    (after (step { user [(0, 17)] with ac := 3, y := 9 })).map (fun t => (t.ac, t.y)) = some (9, 9) := by decide

/-- A12 to A14. -/
theorem test_copy_to_sp :
    (after (step { user [(0, 18)] with ac := -5 })).map (fun t => (t.usp, t.ssp)) = some (-5, 1999) ∧
    (after (step { handler [(1500, 18)] with ac := 1800 })).map (fun t => (t.usp, t.ssp)) = some (999, 1800) := by decide

/-- A15 and A16. -/
theorem test_copy_from_sp :
    (after (step (user [(0, 19)]))).map (fun t => t.ac) = some 999 ∧
    (after (step (handler [(1500, 19)]))).map (fun t => t.ac) = some 1997 := by decide

/-- A18 and A20. -/
theorem test_inc_dec :
    (after (step { user [(0, 25)] with x := 2147483647 })).map (fun t => t.x) = some (-2147483648) ∧
    (after (step { user [(0, 26)] with x := -2147483648 })).map (fun t => t.x) = some 2147483647 := by decide

/-- C2: the jump does not fault, the next fetch does. -/
theorem test_jump :
    (after (step (user [(0, 20), (1, -1)]))).map (fun t => (t.pc, t.run)) = some (-1, .running) ∧
    (after (step { user [(0, 20), (1, -1)] with pc := -1 })).map faultView = some (.addressRange, -1, -1, .faulted) := by decide

/-- C3 and C4. -/
theorem test_jump_if_zero :
    (after (step (user [(0, 21), (1, 100)]))).map (fun t => t.pc) = some 100 ∧
    (after (step { user [(0, 21), (1, 100)] with ac := 1 })).map (fun t => t.pc) = some 2 := by decide

/-- C5. -/
theorem test_jump_if_nonzero :
    (after (step { user [(0, 22), (1, 100)] with ac := -1 })).map (fun t => t.pc) = some 100 ∧
    (after (step (user [(0, 22), (1, 100)]))).map (fun t => t.pc) = some 2 := by decide

/-- C6, its first cycle, and C8, its last. -/
theorem test_call :
    (after (step { user [(20, 23), (21, 100)] with pc := 20 })).map (fun t => (t.pc, t.usp, Memory.read t.mem 998)) =
      some (100, 998, 22) ∧
    (after (step { user [(3, 23), (4, 50)] with pc := 3, usp := 0 })).map (fun t => (faultView t, t.usp)) =
      some ((.addressRange, -1, 5, .faulted), 0) := by decide

/-- C7 and C9, its last cycle. -/
theorem test_ret :
    (after (step (user [(0, 24), (999, 5)]))).map (fun t => (t.pc, t.usp)) = some (5, 1000) ∧
    (after (step { handler [(1600, 24), (1996, 1502)] with pc := 1600, ssp := 1996 })).map (fun t => (t.pc, t.ssp, t.mode)) =
      some (1502, 1997, .system) := by decide

/-- K1, its first cycle, and K3, its last. -/
theorem test_push :
    (after (step { user [(0, 27), (1, 28)] with ac := 8 })).map (fun t => (t.usp, t.ssp, Memory.read t.mem 998)) =
      some (998, 1999, 8) ∧
    (after (step { user [(3, 27)] with pc := 3, usp := 0 })).map (fun t => (faultView t, t.usp)) =
      some ((.addressRange, -1, 4, .faulted), 0) := by decide

/-- K2, and the last read of K4. -/
theorem test_pop :
    (after (step (user [(0, 28), (999, 44)]))).map (fun t => (t.ac, t.usp)) = some (44, 1000) ∧
    (after (step { handler [(1502, 28), (1997, 999), (1998, 1)] with pc := 1502, ssp := 1999, ac := 1 })).map
      (fun t => (t.ac, t.ssp)) = some (0, 2000) := by decide

/-- Y1. -/
theorem test_int :
    (after (step { user [(30, 29)] with pc := 30, usp := 990 })).map
      (fun t => (t.mode, t.pc, t.ssp, t.usp, Memory.read t.mem 1998, Memory.read t.mem 1997)) =
      some (.system, 1500, 1997, 990, 31, 990) := by decide

/-- Y3. -/
theorem test_int_in_system_mode :
    (after (step (handler [(1500, 29)]))).map (fun t => (faultView t, t.mode, t.ssp)) =
      some ((.illegalMode, 29, 1501, .faulted), .system, 1997) := by decide

/-- Y2 and Y4. -/
theorem test_iret :
    (after (step (handler [(1500, 30), (1997, 990), (1998, 31)]))).map (fun t => (t.mode, t.pc, t.ssp, t.usp)) =
      some (.user, 31, 1999, 990) ∧
    (after (step (user [(0, 30)]))).map (fun t => (faultView t, t.requests)) =
      some ((.illegalMode, 30, 1, .faulted), [⟨.read, 0, 0⟩]) := by decide

/-- Y5. -/
theorem test_end :
    (after (step { user [(4, 50)] with pc := 4 })).map (fun t => (t.run, t.pc, t.exitStatus, t.requests)) =
      some (.exited, 5, some .success, [⟨.read, 4, 0⟩, ⟨.terminate, 0, 0⟩]) := by decide

/-- R194, corner case (5): a Memory Engine that never exits leaves the unit in HALTING, where it stays for ever. -/
theorem test_end_never_exits :
    (after (step (neverExits [(0, 50)]))).map (fun t => (t.run, t.exitStatus, t.requests)) =
      some (.halting, none, [⟨.read, 0, 0⟩, ⟨.terminate, 0, 0⟩]) ∧
    step { neverExits [(0, 50)] with run := .halting } = .fault .memoryNeverExits := ⟨by decide, rfl⟩

/-- R65, R110: an operand fetch that is never answered, one that is, and a run from reset stuck on its first request. -/
theorem test_unanswered_request :
    step (answersOnly 1 [(0, 1), (1, 5)]) = .fault .memoryNeverAnswers ∧
    (after (step (answersOnly 2 [(0, 1), (1, 5)]))).map (fun t => (t.ac, t.pc)) = some (5, 2) ∧
    Host.Core.run Sys2Proof.core 3 { State.reset with lapse := .neverAnswers 0 } = .fault .memoryNeverAnswers :=
  ⟨rfl, by decide, rfl⟩

/-- R60 before R61: a cycle whose first access is out of range sends nothing and faults, though nothing would be answered. -/
theorem test_range_check_before_wait :
    (after (step { answersOnly 0 [] with pc := 2000 })).map faultView = some (.addressRange, 2000, 2000, .faulted) ∧
    (after (step { answersOnly 0 [] with timer := 1, ssp := 0 })).map faultView = some (.addressRange, -1, 0, .faulted) := by decide

/-- E1. -/
theorem test_illegal_opcode :
    (after (step (user []))).map (fun t => (faultView t, t.requests, t.exitStatus)) =
      some ((.illegalOpcode, 0, 1, .faulted), [⟨.read, 0, 0⟩], some .failure) := by decide

/-- T2, its first cycle: interrupt, handler's IRET and reload in one cycle. -/
theorem test_timer_interval_one :
    (after (step { user [(0, 50), (1000, 30)] with timer := 1, interval := 1 })).map
      (fun t => (t.pc, t.mode, t.timer, t.ssp)) = some (0, .user, 1, 1999) := by decide

/-- P2, cycle 3: the interrupt comes before the fetch, and END does not reload. -/
theorem test_timer_before_fetch :
    (after (step { user [(0, 20), (1000, 50)] with timer := 1, interval := 3 })).map
      (fun t => (t.run, t.pc, t.mode, t.timer, Memory.read t.mem 1997)) =
      some (.exited, 1001, .system, 0, 999) := by decide

/-- P4, cycle 10: an expiry in system mode is lost, and TIMER is reloaded. -/
theorem test_timer_lost_in_system_mode :
    (after (step { handler [(1500, 25)] with timer := 1, interval := 5 })).map
      (fun t => (t.x, t.pc, t.mode, t.timer)) = some (1, 1501, .system, 5) := by decide

/-- C10, its second cycle: the operand of an instruction at 1999. -/
theorem test_operand_outside_memory :
    (after (step { user [(1999, 1)] with pc := 1999 })).map faultView = some (.addressRange, 2000, 2000, .faulted) := by decide

/-- R58, R241: the two steps before the first cycle. -/
theorem test_start :
    (after (step State.reset)).map (fun t => (t.run, t.engine)) = some (.waitReady, .serving) ∧
    (after (step { State.reset with engine := .serving })).map (fun t => (t.run, t.engine)) = some (.running, .serving) := by decide

/-! ## Witnesses: a state and operands that meet the hypotheses of each obligation together -/

/-- EncodeInvertsDecode; a word is left over. -/
theorem witness_EncodeInvertsDecode :
    decode [1, 5, 50] = .ok (.loadValue 5) [50] ∧ decode [10, 77] = .ok .addX [77] := by decide

/-- IllegalOpcodeWords: both sides, where the three ranges end. -/
theorem witness_IllegalOpcodeWords :
    (0 : Word).toInt ≤ 0 ∧ 31 ≤ (31 : Word).toInt ∧ (49 : Word).toInt ≤ 49 ∧ 51 ≤ (51 : Word).toInt ∧
    decode [30] ≠ .illegalOpcode 30 ∧ decode [50] ≠ .illegalOpcode 50 ∧ decode [1] ≠ .illegalOpcode 1 := by decide

/-- ResetValues: an address of memory, at both ends. -/
theorem witness_ResetValues : 0 < 2000 ∧ 1999 < 2000 := by decide

/-- StartHandshake, LaunchMeetsInvariants: the least legal INTERVAL, and a lapse for each clause. -/
theorem witness_legal_interval :
    1 ≤ (1 : Word).toInt ∧ Lapse.neverExits ≠ .neverReady ∧ Lapse.neverReady = .neverReady := by decide

/-- RunTransitions: from each of the three values of RUN that step, to each they lead to. -/
theorem witness_RunTransitions :
    (∃ t, step State.reset = .next t ∧ decide (t.run = .waitReady) = true) ∧
    (∃ t, step { State.reset with engine := .serving } = .next t ∧ decide (t.run = .running) = true) ∧
    (∃ t, step (user [(0, 25)]) = .next t ∧ decide (t.run = .running) = true) ∧
    (∃ t, step (user [(0, 50)]) = .next t ∧ decide (t.run = .exited) = true) ∧
    (∃ t, step (neverExits [(0, 50)]) = .next t ∧ decide (t.run = .halting) = true) ∧
    (∃ t, step (user []) = .next t ∧ decide (t.run = .faulted) = true) ∧
    (∃ t, step { user [] with run := .halting } = .next t ∧ decide (t.run = .exited) = true) :=
  ⟨answers (by decide), answers (by decide), answers (by decide), answers (by decide), answers (by decide),
    answers (by decide), answers (by decide)⟩

/-- OnlyEndExits: a step to EXITED and one to HALTING, with no timer interrupt due and with one. -/
theorem witness_OnlyEndExits :
    ((user [(0, 50)]).run = .running ∧ ¬InterruptDue (user [(0, 50)]) ∧
      ∃ t, step (user [(0, 50)]) = .next t ∧ decide (t.run = .exited) = true) ∧
    ((neverExits [(0, 50)]).run = .running ∧ ¬InterruptDue (neverExits [(0, 50)]) ∧
      ∃ t, step (neverExits [(0, 50)]) = .next t ∧ decide (t.run = .halting) = true) ∧
    ((due 2 [(1000, 50)]).run = .running ∧ InterruptDue (due 2 [(1000, 50)]) ∧
      ∃ t, step (due 2 [(1000, 50)]) = .next t ∧ decide (t.run = .exited) = true) ∧
    (let s : State := { due 2000 [(1000, 50)] with lapse := .neverExits };
      s.run = .running ∧ InterruptDue s ∧ ∃ t, step s = .next t ∧ decide (t.run = .halting) = true) :=
  ⟨⟨rfl, by unfold InterruptDue; decide, answers (by decide)⟩, ⟨rfl, by unfold InterruptDue; decide, answers (by decide)⟩,
    ⟨rfl, due_due _ _, answers (by decide)⟩, rfl, due_due 2000 [(1000, 50)], answers (by decide)⟩

/-- StepRunsDecodedInstruction: two words at the last place they fit, timer not due; one word at 1999, system mode, timer at 1; with a
Memory Engine that never exits. -/
theorem witness_StepRunsDecodedInstruction :
    (let s : State := { user [(1998, 1), (1999, 5)] with pc := 1998 };
      s.run = .running ∧ s.firstUnanswered = none ∧ ¬InterruptDue s ∧ 0 ≤ s.pc.toInt ∧
      s.pc.toInt + ((encode (.loadValue 5)).length : Int) ≤ 2000 ∧
      ∀ k (h : k < (encode (.loadValue 5)).length),
        Memory.read s.mem (s.pc.toNat + k) = (encode (.loadValue 5))[k]) ∧
    (let s : State := { handler [(1999, 30)] with pc := 1999, timer := 1 };
      s.run = .running ∧ s.firstUnanswered = none ∧ ¬InterruptDue s ∧ 0 ≤ s.pc.toInt ∧
      s.pc.toInt + ((encode .iret).length : Int) ≤ 2000 ∧
      ∀ k (h : k < (encode .iret).length), Memory.read s.mem (s.pc.toNat + k) = (encode .iret)[k]) ∧
    (let s : State := neverExits [(0, 50)];
      s.run = .running ∧ s.firstUnanswered = none ∧ ¬InterruptDue s ∧ 0 ≤ s.pc.toInt ∧
      s.pc.toInt + ((encode .endRun).length : Int) ≤ 2000 ∧
      ∀ k (h : k < (encode .endRun).length), Memory.read s.mem (s.pc.toNat + k) = (encode .endRun)[k]) := by
  unfold InterruptDue; decide

/-- StepTakesTimerInterrupt: SSP at both ends of its range, with the words of an instruction at 1000; SSP at 1; SSP just outside, also
with a Memory Engine that answers nothing. -/
theorem witness_StepTakesTimerInterrupt :
    (let s := due 2 [(1000, 30)];
      s.run = .running ∧ s.firstUnanswered = none ∧ InterruptDue s ∧ 2 ≤ s.ssp.toInt ∧ s.ssp.toInt ≤ 2000 ∧
      ∀ k (h : k < (encode .iret).length), Memory.read (withFrame s) (1000 + k) = (encode .iret)[k]) ∧
    (let s := due 2000 [(1000, 23), (1001, 7)];
      s.run = .running ∧ s.firstUnanswered = none ∧ InterruptDue s ∧ 2 ≤ s.ssp.toInt ∧ s.ssp.toInt ≤ 2000 ∧
      ∀ k (h : k < (encode (.call 7)).length), Memory.read (withFrame s) (1000 + k) = (encode (.call 7))[k]) ∧
    (due 1 []).ssp.toInt = 1 ∧ (due 1 []).firstUnanswered = none ∧ (due 0 []).ssp.toInt < 1 ∧ 2000 < (due 2001 []).ssp.toInt ∧
    (let s : State := { due 0 [] with lapse := .neverAnswers 0 };
      s.run = .running ∧ InterruptDue s ∧ s.ssp.toInt < 1 ∧ s.firstUnanswered = some 0) := by
  unfold InterruptDue; decide

/-- FetchOutsideMemoryFaults: PC just outside at both ends, and a two-word instruction at 1999. -/
theorem witness_FetchOutsideMemoryFaults :
    (let s : State := { answersOnly 0 [] with pc := -1 };
      s.run = .running ∧ ¬InterruptDue s ∧ s.pc.toInt < 0) ∧
    (let s : State := { user [] with pc := 2000 };
      s.run = .running ∧ ¬InterruptDue s ∧ 1999 < s.pc.toInt) ∧
    (let s : State := { user [(1999, 20)] with pc := 1999 };
      s.run = .running ∧ s.firstUnanswered = none ∧ ¬InterruptDue s ∧ s.pc = 1999 ∧
      encode (.jump 3) = [Memory.read s.mem 1999, 3]) := by unfold InterruptDue; decide

/-- IllegalOpcodeFaults: words next to the legal ones, at both ends of memory, and at 1000 with the interrupt due. -/
theorem witness_IllegalOpcodeFaults :
    (¬(1 ≤ (0 : Word).toInt ∧ (0 : Word).toInt ≤ 30) ∧ (0 : Word).toInt ≠ 50 ∧
      ¬(1 ≤ (31 : Word).toInt ∧ (31 : Word).toInt ≤ 30) ∧ (31 : Word).toInt ≠ 50) ∧
    (let s : State := user [];
      0 ≤ s.pc.toInt ∧ s.pc.toInt ≤ 1999 ∧ Memory.read s.mem s.pc.toNat = 0 ∧
      s.run = .running ∧ s.firstUnanswered = none ∧ ¬InterruptDue s) ∧
    (let s : State := { user [(1999, 31)] with pc := 1999 };
      0 ≤ s.pc.toInt ∧ s.pc.toInt ≤ 1999 ∧ Memory.read s.mem s.pc.toNat = 31 ∧
      s.run = .running ∧ s.firstUnanswered = none ∧ ¬InterruptDue s) ∧
    (let s := due 2 [(1000, 31)];
      s.run = .running ∧ s.firstUnanswered = none ∧ InterruptDue s ∧ 2 ≤ s.ssp.toInt ∧ s.ssp.toInt ≤ 2000 ∧
      Memory.read (withFrame s) 1000 = 31) ∧
    (let s := due 2000 [];
      s.run = .running ∧ s.firstUnanswered = none ∧ InterruptDue s ∧ 2 ≤ s.ssp.toInt ∧ s.ssp.toInt ≤ 2000 ∧
      Memory.read (withFrame s) 1000 = 0) := by unfold InterruptDue; decide

/-- TimerOverACycle: the cycle that reloads, and one that does not. -/
theorem witness_TimerOverACycle :
    (∃ t, step { user [(0, 50), (1000, 30)] with timer := 1, interval := 7 } = .next t ∧
      decide (t.run = .running ∧ t.timer = 7) = true) ∧
    (∃ t, step { user [(0, 25)] with timer := 2, interval := 7 } = .next t ∧
      decide (t.run = .running ∧ t.timer = 1) = true) := ⟨answers (by decide), answers (by decide)⟩

/-- TimerPeriodOverRuns: a run over the reload. -/
theorem witness_TimerPeriodOverRuns :
    let s : State := { user [(0, 20), (1000, 20), (1001, 1000)] with timer := 2, interval := 2 };
    s.run = .running ∧ 1 ≤ s.interval.toInt ∧ s.timer = s.interval ∧
      ∃ t, Host.Core.run Sys2Proof.core 3 s = .next t ∧ decide (t.run = .running ∧ t.timer = 1) = true :=
  ⟨by decide, by decide, by decide, answers (by decide)⟩

/-- ExpiryInSystemModeIsLost: TIMER at 1 and away from it. -/
theorem witness_ExpiryInSystemModeIsLost :
    (let s : State := { handler [(1500, 25)] with timer := 1 };
      s.run = .running ∧ s.mode = .system ∧ ∃ t, step s = .next t ∧ decide (t.run = .running) = true) ∧
    (let s : State := handler [(1500, 25)];
      s.run = .running ∧ s.mode = .system ∧ ∃ t, step s = .next t ∧ decide (t.run = .running) = true) :=
  ⟨⟨rfl, rfl, answers (by decide)⟩, rfl, rfl, answers (by decide)⟩

/-- ModeChanges: to system mode by the timer and by INT, to user mode by IRET. -/
theorem witness_ModeChanges :
    (∃ t, step { user [(1000, 25)] with timer := 1 } = .next t ∧ decide (t.mode = .system) = true) ∧
    (∃ t, step (user [(0, 29)]) = .next t ∧ decide (t.mode = .system) = true) ∧
    (∃ t, step (handler [(1500, 30)]) = .next t ∧ decide (t.mode = .user) = true) :=
  ⟨answers (by decide), answers (by decide), answers (by decide)⟩

/-- Clauses by mode: ActiveStackPointer, StackPointerCopyRule, IntRule, IretRule, UserPointerUnusedInSystemMode. -/
theorem witness_modes : (user []).mode = .user ∧ (handler []).mode = .system := by decide

/-- ReadAfterWrite: the address written, and another, at the ends of memory. -/
theorem witness_ReadAfterWrite :
    (∃ t, memWrite 1999 7 (user []) = .done () t ∧ Memory.read t.mem 1999 = 7) ∧
    (∃ t, memWrite 0 7 (user []) = .done () t ∧ Memory.read t.mem 0 = 7) ∧ (1999 : Int) ≤ 1999 ∧ (0 : Int) ≤ 0 ∧
    (0 : Int) ≠ 1999 := ⟨⟨_, rfl, by decide⟩, ⟨_, rfl, by decide⟩, by decide, by decide, by decide⟩

/-- Clauses by address: RangeCheck, LoadAddrRule, LoadIndirectRule (the pointer too), StoreRule: inside and outside at both ends. -/
theorem witness_addresses :
    0 ≤ (0 : Word).toInt ∧ (1999 : Word).toInt ≤ 1999 ∧ (-1 : Word).toInt < 0 ∧ 1999 < (2000 : Word).toInt := by decide

/-- LoadIndirectRule: a good pointer and a bad one behind a good address. -/
theorem witness_LoadIndirectRule :
    0 ≤ (Memory.read [(300, 1999)] 300).toInt ∧ (Memory.read [(300, 1999)] 300).toInt ≤ 1999 ∧
    (Memory.read [(300, -1)] 300).toInt < 0 ∧ 1999 < (Memory.read [(300, 2000)] 300).toInt := by decide

/-- LoadIndexedRule: effective addresses at the four ends, and one beyond the range of a word. -/
theorem witness_LoadIndexedRule :
    (100 : Word).toInt + (-100 : Word).toInt = 0 ∧ (1990 : Word).toInt + (9 : Word).toInt = 1999 ∧
    (100 : Word).toInt + (-101 : Word).toInt = -1 ∧ (1990 : Word).toInt + (10 : Word).toInt = 2000 ∧
    (1 : Word).toInt + (2147483647 : Word).toInt = 2147483648 := by decide

/-- LoadStackRule: SP + X at 0, 998, 999, -1. -/
theorem witness_LoadStackRule :
    (let s : State := { user [] with usp := 10, x := -10 }; s.sp.toInt + s.x.toInt = 0) ∧
    (let s : State := { user [] with usp := 997, x := 1 }; s.sp.toInt + s.x.toInt = 998) ∧
    (let s : State := { user [] with usp := 997, x := 2 }; s.sp.toInt + s.x.toInt = 999) ∧
    (let s : State := { user [] with usp := 10, x := -11 }; s.sp.toInt + s.x.toInt = -1) := by decide

/-- StoreSeenByNextFetch: PC is the address stored to (L26). -/
theorem witness_StoreSeenByNextFetch :
    let s : State := { user [] with pc := 4, ac := 50 };
    s.pc = 4 ∧ s.run = .running ∧ ∃ t, exec (.storeAddr 4) s = .next t ∧ decide (t.run = .running) = true :=
  ⟨by decide, by decide, answers (by decide)⟩

/-- AccessCheck: pointer and address at 999 and 1000. -/
theorem witness_AccessCheck :
    (user []).sp.toInt < 1000 ∧ 1000 ≤ (1000 : Word).toInt ∧ (999 : Word).toInt < 1000 ∧
    1000 ≤ (State.sp { user [] with usp := 1000 }).toInt := by decide

/-- TrapEntryRule, IntRule: SSP at 2, 2000, 1, 0 and 2001. -/
theorem witness_TrapEntryRule :
    (user []).mode = .user ∧ 2 ≤ (2 : Word).toInt ∧ (2000 : Word).toInt ≤ 2000 ∧ (1 : Word).toInt = 1 ∧
    (0 : Word).toInt < 1 ∧ 2000 < (2001 : Word).toInt := by decide

/-- PutRule: a port that is neither. -/
theorem witness_PutRule : (3 : Word) ≠ 1 ∧ (3 : Word) ≠ 2 ∧ (0 : Word) ≠ 1 ∧ (0 : Word) ≠ 2 := by decide

/-- JumpRule: AC zero and not. -/
theorem witness_JumpRule : (user []).ac = 0 ∧ (State.ac { user [] with ac := -1 }) ≠ 0 := by decide

/-- Clauses by the active pointer: CallRetRule, PushPopRule, PushThenPopRestores, CallThenRetRestores: a push at 1 and 2000, none at 0
and 2001; a pop at 0 and 1999, none at -1 and 2000; in both modes. -/
theorem witness_stack_pointers :
    (State.sp { user [] with usp := 1 }).toInt = 1 ∧ (State.sp { user [] with usp := 2000 }).toInt = 2000 ∧
    (State.sp { user [] with usp := 0 }).toInt = 0 ∧ (State.sp { user [] with usp := 2001 }).toInt = 2001 ∧
    (State.sp { handler [] with ssp := 1 }).toInt = 1 ∧ (State.sp { handler [] with ssp := 1999 }).toInt = 1999 ∧
    (State.sp { handler [] with ssp := -1 }).toInt = -1 := by decide

/-- IretRule: SSP at 0, 1998, 1999, -1 and 2000, in system mode. -/
theorem witness_IretRule :
    (handler []).mode = .system ∧ 0 ≤ (0 : Word).toInt ∧ (1998 : Word).toInt ≤ 1998 ∧ (1999 : Word).toInt = 1999 ∧
    (-1 : Word).toInt < 0 ∧ 1999 < (2000 : Word).toInt := by decide

/-- TrapThenIretRestores: right after the entry. -/
theorem witness_TrapThenIretRestores :
    let s : State := { user [] with pc := 31, usp := 990 };
    s.mode = .user ∧ ∃ e, trapEntry 1500 s = .done () e ∧ e.mode = .system ∧ e.ssp.toInt = 1997 :=
  ⟨rfl, _, rfl, rfl, by decide⟩

/-- EndRule: a Memory Engine that exits, and one that does not. -/
theorem witness_EndRule : (user []).lapse ≠ .neverExits ∧ (neverExits []).lapse = .neverExits := by decide

/-- RegisterFrame, ControlFrame, MemoryFrameNoStore, BodyRequestTrace, BodyEmissions: an instruction that answers, a register it does
not write, and one that never faults. -/
theorem witness_frames :
    (∃ t, exec .addX (user []) = .next t ∧ decide (t.run = .running) = true) ∧ neverFaults .addX = true ∧
    Reg.x ∉ writtenRegs .addX .user ∧ Reg.usp ∉ writtenRegs .push .system ∧ Reg.ssp ∉ writtenRegs .push .user :=
  ⟨answers (by decide), by decide, by decide, by decide, by decide⟩

/-- ControlFrame: END, which never faults either, and an instruction that faults. -/
theorem witness_ControlFrame :
    neverFaults .endRun = true ∧ (∃ t, exec .endRun (user []) = .next t ∧ decide (t.run = .exited) = true) ∧
    neverFaults .pop = false ∧
      ∃ t, exec .pop { user [] with usp := 2000 } = .next t ∧ decide (t.run = .faulted) = true :=
  ⟨by decide, answers (by decide), by decide, answers (by decide)⟩

/-- MemoryFrameStore: each of the four stores, and an address it does not store to. -/
theorem witness_MemoryFrameStore :
    (∃ t, exec (.storeAddr 500) (user []) = .next t ∧ decide (t.run = .running) = true) ∧ ((501 : Nat) : Int) ≠ directAddr 500 ∧
    (∃ t, exec (.call 30) (user []) = .next t ∧ decide (t.pc = 30) = true) ∧
    (∃ t, exec .push (user []) = .next t ∧ decide (t.usp = 998) = true) ∧ ((999 : Nat) : Int) ≠ (user []).sp.toInt - 1 ∧
    (∃ t, exec .int (user []) = .next t ∧ decide (t.pc = 1500) = true) ∧
    ((1999 : Nat) : Int) ≠ (user []).ssp.toInt - 1 ∧ ((1999 : Nat) : Int) ≠ (user []).ssp.toInt - 2 :=
  ⟨answers (by decide), by decide, answers (by decide), answers (by decide), by decide, answers (by decide), by decide, by decide⟩

/-- UserPointerUnusedInSystemMode. -/
theorem witness_UserPointerUnusedInSystemMode :
    (handler []).mode = .system ∧ Instr.push ≠ .iret ∧
    ∃ t, exec .push (handler []) = .next t ∧ decide (t.ssp = 1996) = true := ⟨rfl, by decide, answers (by decide)⟩

/-- MemoryFormKept, TimerRangeKept, StatusKept, RequestTraceKept, TracesOnlyGrow: a running state that meets them all and steps. -/
theorem witness_invariants_running :
    let s : State := { user [(0, 27), (1, 5)] with timer := 1, interval := 1 };
    Memory.wf s.mem ∧ TimerOk s ∧ StatusOk s ∧ TraceOk s ∧
      ∃ t, step s = .next t ∧ decide (t.run = .faulted) = true :=
  ⟨by decide, by simp [TimerOk, user], by simp [StatusOk, user, State.reset], by simp [TraceOk, user, State.reset],
    answers (by decide)⟩

/-- The same for a waiting and for a halting unit. -/
theorem witness_invariants_waiting_halting :
    (TimerOk State.reset ∧ StatusOk State.reset ∧ TraceOk State.reset ∧
      ∃ t, step State.reset = .next t ∧ decide (t.run = .waitReady) = true) ∧
    (let s : State := { user [] with run := .halting, requests := [Request.terminate] };
      TimerOk s ∧ StatusOk s ∧ TraceOk s ∧ ∃ t, step s = .next t ∧ decide (t.run = .exited) = true) :=
  ⟨⟨by simp [TimerOk, State.reset], by simp [StatusOk, State.reset], by simp [TraceOk, State.reset], answers (by decide)⟩,
    by simp [TimerOk, user, State.reset], by simp [StatusOk, user, State.reset], ⟨[], by simp⟩, answers (by decide)⟩

/-- MemoryIsTraceReplay: the empty trace against the image, before a store. -/
theorem witness_MemoryIsTraceReplay :
    let s : State := { user [] with mem := [(0, 27)] };
    (∀ a < 2000, Memory.read s.mem a = replay a (Memory.read [(0, 27)] a) s.requests) ∧
      ∃ t, step s = .next t ∧ decide (t.usp = 998) = true := ⟨fun _ _ => rfl, answers (by decide)⟩

/-- ConsoleRendering: a negative value and one that is not. -/
theorem witness_ConsoleRendering : (-1 : Word).toInt < 0 ∧ ¬(0 : Word).toInt < 0 := by decide

/-- UnansweredRequestIsStuck: HALTING; the first READ of a cycle unanswered, its second, and none. -/
theorem witness_UnansweredRequestIsStuck :
    (let s : State := { neverExits [] with run := .halting }; s.run = .halting ∧ s.lapse = .neverExits) ∧
    (let s := user [(0, 1), (1, 5)];
      s.run = .running ∧ s.engine = .serving ∧
        ∃ t, step s = .next t ∧ SentFrom 0 s t ∧ SentFrom 1 s t ∧ ¬SentFrom 2 s t) :=
  ⟨⟨rfl, rfl⟩, rfl, rfl, _, rfl, ⟨0, _, by decide, by decide, rfl, by decide⟩, ⟨1, _, by decide, by decide, rfl, by decide⟩,
    fun ⟨k, _, hk, _, h, _⟩ => by
      obtain ⟨j, rfl⟩ := Nat.exists_eq_add_of_le hk
      rw [Nat.add_comm] at h
      cases h⟩

end Sys2Proof.Tests
end

section
/-! The state when reset is released, R39. -/

namespace Sys2Proof.Machine

/-- R12, R39: every word of memory a launch leaves is the image's; 2000 is `Config.memWords`, as the statements write it. -/
theorem read_launch_mem (interval : Word) (image : Nat → Word) {a : Nat} (ha : a < 2000) :
    Memory.read (State.launch interval image).mem a = image a := by
  have hlt : a < Config.memWords := ha
  rw [launch_mem, Memory.read_ofImage, if_pos hlt]

/-- Settles O5: a launch takes every field but TIMER, INTERVAL and memory from `State.reset`, whose values are the table's; memory is
`read_launch_mem`. -/
theorem resetValues : Obligations.ResetValues := by
  intro interval image
  exact ⟨rfl, rfl, rfl, rfl, rfl, rfl, rfl, rfl, rfl, rfl, rfl, rfl, rfl, rfl,
    fun _ ha => read_launch_mem interval image ha⟩

end Sys2Proof.Machine
end

section
/-! The access check, R71. -/

namespace Sys2Proof.Machine

/-- Settles O21: `checkMemAccess_eq` appends by R71's condition; the pointer at 1000 or above, or the address below, is its
negation, and nothing is appended then. -/
theorem accessCheck : Obligations.AccessCheck := by
  intro s a
  rw [checkMemAccess_eq]
  constructor
  · intro hsp ha
    rw [if_pos ⟨hsp, ha⟩]
  · intro hout
    have hsilent : ¬(s.sp.toInt < 1000 ∧ 1000 ≤ a.toInt) := by omega
    rw [if_neg hsilent, List.append_nil]

end Sys2Proof.Machine
end

section
/-! TIMER, INTERVAL and the lapse: nothing between the tick and the reload of a cycle writes them (R101, R106). -/

namespace Sys2Proof.Machine

/-! ## Keeping the clock -/

/-- R31, R11, R65: `t` has the countdown, its reload value and the lapse of `s`. -/
structure ClockKept (s t : State) : Prop where
  timer : t.timer = s.timer
  interval : t.interval = s.interval
  lapse : t.lapse = s.lapse

theorem ClockKept.trans {s t u : State} (h : ClockKept s t) (h' : ClockKept t u) : ClockKept s u :=
  ⟨h'.timer.trans h.timer, h'.interval.trans h.interval, h'.lapse.trans h.lapse⟩

/-- A piece of pseudocode started in `s` keeps the clock, done or raised; where it has raised the unit is in FAULTED (R201). -/
def Ran.KeepsClock {α : Type} (r : Ran α) (s : State) : Prop :=
  match r with
  | .done _ t => ClockKept s t
  | .raised t => ClockKept s t ∧ t.run = .faulted

/-- The next statement may start from whatever the first part left, and so keeps the clock of the start. -/
theorem Ran.KeepsClock.andThen {α β : Type} {r : Ran α} {k : α → State → Ran β} {s : State}
    (hr : r.KeepsClock s) (hk : ∀ v t, (k v t).KeepsClock t) : (r.andThen k).KeepsClock s := by
  cases r with
  | raised t => exact hr
  | done v t =>
    have hkt := hk v t
    rw [Ran.andThen_done]
    cases hu : k v t with
    | done w u =>
      rw [hu] at hkt
      exact ClockKept.trans hr hkt
    | raised u =>
      rw [hu] at hkt
      exact ⟨ClockKept.trans hr hkt.1, hkt.2⟩

/-- Pseudocode that starts in a state with the clock of `s` keeps the clock of `s`. -/
theorem Ran.KeepsClock.of_start {α : Type} {r : Ran α} {s t : State} (hr : r.KeepsClock t) (hst : ClockKept s t) :
    r.KeepsClock s := by
  cases r with
  | done v u => exact hst.trans hr
  | raised u => exact ⟨hst.trans hr.1, hr.2⟩

/-- An instruction's body that keeps the clock leaves a next state with the clock kept. -/
theorem Ran.KeepsClock.leaves {r : Ran Unit} {s : State} (hr : r.KeepsClock s) :
    ∃ t, r.leaves = .next t ∧ ClockKept s t := by
  cases r with
  | done v t => exact ⟨t, rfl, hr⟩
  | raised t => exact ⟨t, rfl, hr.1⟩

/-! ## The shared operations -/

theorem raised_raise_keepsClock {α : Type} (c : Cause) (n : Int) (s : State) :
    (Ran.raised (raise c n s) : Ran α).KeepsClock s := ⟨⟨rfl, rfl, rfl⟩, rfl⟩

theorem setSp_clockKept (s : State) (v : Word) : ClockKept s (s.setSp v) :=
  ⟨setSp_timer s v, setSp_interval s v, setSp_lapse s v⟩

theorem memRead_keepsClock (a : Int) (s : State) : (memRead a s).KeepsClock s := by
  by_cases ha : 0 ≤ a ∧ a ≤ 1999
  · rw [memRead_in s ha.1 ha.2]
    exact ⟨rfl, rfl, rfl⟩
  · rw [memRead_out s ha]
    exact raised_raise_keepsClock _ _ s

theorem memWrite_keepsClock (a : Int) (v : Word) (s : State) : (memWrite a v s).KeepsClock s := by
  by_cases ha : 0 ≤ a ∧ a ≤ 1999
  · rw [memWrite_in v s ha.1 ha.2]
    exact ⟨rfl, rfl, rfl⟩
  · rw [memWrite_out v s ha]
    exact raised_raise_keepsClock _ _ s

theorem fetchWord_keepsClock (s : State) : (fetchWord s).KeepsClock s :=
  (memRead_keepsClock _ s).andThen fun _ _ => ⟨rfl, rfl, rfl⟩

theorem pushWord_keepsClock (v : Word) (s : State) : (pushWord v s).KeepsClock s := by
  by_cases hsp : 1 ≤ s.sp.toInt ∧ s.sp.toInt ≤ 2000
  · rw [pushWord_in v s hsp.1 hsp.2]
    exact ⟨setSp_timer s _, setSp_interval s _, setSp_lapse s _⟩
  · rw [pushWord_out v s hsp]
    exact raised_raise_keepsClock _ _ s

theorem popWord_keepsClock (s : State) : (popWord s).KeepsClock s :=
  (memRead_keepsClock _ s).andThen fun _ t => setSp_clockKept t _

theorem readStack_keepsClock (s : State) : (readStack s).KeepsClock s := by
  by_cases hb : 999 ≤ stackAddr s
  · rw [readStack_bound s hb]
    exact raised_raise_keepsClock _ _ s
  · rw [readStack_below s (not_le.1 hb)]
    exact memRead_keepsClock _ s

theorem checkMemAccess_clockKept (a : Word) (s : State) : ClockKept s (checkMemAccess a s) := by
  rw [checkMemAccess_eq]
  exact ⟨rfl, rfl, rfl⟩

theorem trapEntry_keepsClock (v : Word) (s : State) : (trapEntry v s).KeepsClock s :=
  Ran.KeepsClock.of_start
    ((pushWord_keepsClock _ _).andThen fun _ t => (pushWord_keepsClock _ t).andThen fun _ _ => ⟨rfl, rfl, rfl⟩)
    ⟨rfl, rfl, rfl⟩

theorem trapReturn_keepsClock (s : State) : (trapReturn s).KeepsClock s :=
  (popWord_keepsClock s).andThen fun _ _ =>
    Ran.KeepsClock.of_start ((popWord_keepsClock _).andThen fun _ _ => ⟨rfl, rfl, rfl⟩) ⟨rfl, rfl, rfl⟩

theorem halt_clockKept (s : State) : ClockKept s (halt s) := by
  cases hl : s.lapse.exits with
  | true => rw [halt_exits s hl]; exact ⟨rfl, rfl, rfl⟩
  | false => rw [halt_stays s hl]; exact ⟨rfl, rfl, rfl⟩

/-! ## The parts of a cycle -/

theorem preempt_keepsClock (s : State) : (preempt s).KeepsClock s := by
  rw [preempt_eq]
  split
  · exact trapEntry_keepsClock _ s
  · exact ⟨rfl, rfl, rfl⟩

theorem fetchInstr_keepsClock (s : State) : (fetchInstr s).KeepsClock s := by
  refine (fetchWord_keepsClock s).andThen fun ir t => ?_
  split
  · exact raised_raise_keepsClock _ _ t
  · split
    · exact ⟨rfl, rfl, rfl⟩
    · exact (fetchWord_keepsClock t).andThen fun _ _ => ⟨rfl, rfl, rfl⟩

theorem setAc_keepsClock (v : Word) (s : State) : (setAc v s).KeepsClock s := ⟨rfl, rfl, rfl⟩

/-- R31: every instruction answers, and keeps the clock; a fault and END are no exception. -/
theorem exec_keepsClock (i : Instr) (s : State) : ∃ t, exec i s = .next t ∧ ClockKept s t := by
  cases i with
  | get | addX | addY | subX | subY | copyToX | copyFromX | copyToY | copyFromY | copyFromSp | jump a | incX | decX =>
    exact ⟨_, rfl, rfl, rfl, rfl⟩
  | copyToSp => exact ⟨_, rfl, setSp_clockKept s _⟩
  | endRun => exact ⟨_, rfl, halt_clockKept s⟩
  | jumpIfZero a | jumpIfNonzero a =>
    simp only [exec, execJumpIfZero, execJumpIfNonzero]
    split <;> exact ⟨_, rfl, rfl, rfl, rfl⟩
  | put p =>
    simp only [exec, execPut]
    split
    · exact ⟨_, rfl, rfl, rfl, rfl⟩
    · split <;> exact ⟨_, rfl, rfl, rfl, rfl⟩
  | loadValue v => exact (setAc_keepsClock v s).leaves
  | loadAddr a =>
    exact (((memRead_keepsClock _ _).of_start (checkMemAccess_clockKept a s)).andThen setAc_keepsClock).leaves
  | loadindAddr a =>
    exact (((memRead_keepsClock _ s).andThen fun _ _ => memRead_keepsClock _ _).andThen setAc_keepsClock).leaves
  | loadidxX a | loadidxY a => exact ((memRead_keepsClock _ s).andThen setAc_keepsClock).leaves
  | loadSpx => exact ((readStack_keepsClock s).andThen setAc_keepsClock).leaves
  | storeAddr a => exact (memWrite_keepsClock _ _ s).leaves
  | call a => exact Ran.KeepsClock.leaves ((pushWord_keepsClock _ s).andThen fun _ _ => ⟨rfl, rfl, rfl⟩)
  | push => exact (pushWord_keepsClock _ s).leaves
  | ret | pop => exact Ran.KeepsClock.leaves ((popWord_keepsClock s).andThen fun _ _ => ⟨rfl, rfl, rfl⟩)
  | int =>
    simp only [exec, execInt]
    split
    · exact ⟨_, rfl, rfl, rfl, rfl⟩
    · exact (trapEntry_keepsClock _ s).leaves
  | iret =>
    simp only [exec, execIret]
    split
    · exact ⟨_, rfl, rfl, rfl, rfl⟩
    · exact (trapReturn_keepsClock s).leaves

/-- R101: between the tick and the reload nothing writes the clock. A cycle that raised before it executed is in FAULTED; any other is
what the reload leaves. -/
theorem step_running_clock {s t : State} (hr : s.run = .running) (h : step s = .next t) :
    (ClockKept (tick s) t ∧ t.run = .faulted) ∨ ∃ w, ClockKept (tick s) w ∧ t = reload w := by
  have hp := preempt_keepsClock (tick s)
  obtain ⟨-, e | ⟨u, e, hu⟩⟩ := step_running hr h
  · rw [e] at hp
    exact .inl hp
  · rw [e] at hp
    have hf := (fetchInstr_keepsClock u).of_start hp
    obtain e' | ⟨i, v, w, e', ew, rfl⟩ := hu
    · rw [e'] at hf
      exact .inl hf
    · rw [e'] at hf
      obtain ⟨w', ew', hw⟩ := exec_keepsClock i v
      obtain rfl : w' = w := by simpa [ew'] using ew
      exact .inr ⟨w', ClockKept.trans hf hw, rfl⟩

end Sys2Proof.Machine
end

section
/-! TIMER over a cycle, R101 and R106: the tick and the reload. -/

namespace Sys2Proof.Machine

/-- R101: the tick is the word less one. -/
theorem tick_timer_eq_sub (s : State) : (tick s).timer = s.timer - 1 := wrap_sub_one s.timer

/-- R101: the tick takes TIMER to zero exactly from one. -/
theorem toInt_sub_one_eq_zero_iff (w : Word) : (w - 1).toInt = 0 ↔ w = 1 := by
  rw [← BitVec.toInt_zero (w := 32), BitVec.toInt_inj]
  exact sub_eq_zero

@[simp] theorem reload_run (s : State) : (reload s).run = s.run := by unfold reload; split <;> rfl
@[simp] theorem reload_interval (s : State) : (reload s).interval = s.interval := by unfold reload; split <;> rfl

/-- R106: the reload of a completed cycle, by the value TIMER holds. -/
theorem reload_timer (s : State) :
    (reload s).timer = if s.run = .running ∧ s.timer.toInt = 0 then s.interval else s.timer := by
  unfold reload; split <;> rfl

/-- Settles O13: TIMER is what the tick left (`step_running_clock`); a cycle in FAULTED never reloads, and otherwise `reload_timer`
decides, whose zero is TIMER at one before the tick. -/
theorem timerOverACycle : Obligations.TimerOverACycle := by
  intro s t hr h
  obtain ⟨hk, hf⟩ | ⟨w, hk, rfl⟩ := step_running_clock hr h
  · refine ⟨?_, hk.interval⟩
    rw [if_neg (by simp [hf]), hk.timer, tick_timer_eq_sub]
  · refine ⟨?_, (reload_interval w).trans hk.interval⟩
    simp only [reload_timer, reload_run, hk.timer, hk.interval, tick_interval, tick_timer_eq_sub,
      toInt_sub_one_eq_zero_iff]

end Sys2Proof.Machine
end

section
/-! Loads and the store, opcodes 1 to 7 (R121 to R127). -/

namespace Sys2Proof.Machine

/-! ## Round trips at the address a word gives -/

/-- R59: a READ of the address a word gives carries that word. -/
theorem Request.read_toInt (a : Word) : Request.read a.toInt = ⟨.read, a, 0⟩ := by
  rw [Request.read, wrap_toInt]

/-- R59: a WRITE to the address a word gives carries that word. -/
theorem Request.write_toInt (a v : Word) : Request.write a.toInt v = ⟨.write, a, v⟩ := by
  rw [Request.write, wrap_toInt]

/-- R61 at the address a word gives. -/
theorem memRead_word_in (a : Word) (s : State) (h : 0 ≤ a.toInt) (h' : a.toInt ≤ 1999) :
    memRead a.toInt s = .done (Memory.read s.mem a.toNat) (send ⟨.read, a, 0⟩ s) := by
  rw [memRead_in s h h', toNat_toInt a h, Request.read_toInt]

/-- R62 at the address a word gives. -/
theorem memWrite_word_in (a v : Word) (s : State) (h : 0 ≤ a.toInt) (h' : a.toInt ≤ 1999) :
    memWrite a.toInt v s = .done () { send ⟨.write, a, v⟩ s with mem := Memory.write s.mem a.toNat v } := by
  rw [memWrite_in v s h h', toNat_toInt a h, Request.write_toInt]

/-! ## A read whose word is loaded into AC -/

/-- R120: the word read is loaded, after one READ. -/
theorem memRead_setAc_in {ea : Int} (s : State) (h : 0 ≤ ea) (h' : ea ≤ 1999) :
    ((memRead ea s).andThen setAc).leaves = .next { s with
      ac := Memory.read s.mem ea.toNat, requests := s.requests ++ [.read ea] } := by
  rw [memRead_in s h h']; rfl

/-- R120 at the address a word gives. -/
theorem memRead_setAc_word_in (a : Word) (s : State) (h : 0 ≤ a.toInt) (h' : a.toInt ≤ 1999) :
    ((memRead a.toInt s).andThen setAc).leaves = .next { s with
      ac := Memory.read s.mem a.toNat, requests := s.requests ++ [⟨.read, a, 0⟩] } := by
  rw [memRead_word_in a s h h']; rfl

/-- R60: out of range nothing is loaded. -/
theorem memRead_setAc_out {ea : Int} (s : State) (h : ea < 0 ∨ 1999 < ea) :
    ((memRead ea s).andThen setAc).leaves = .next (raise .addressRange ea s) := by
  rw [memRead_out s (by omega)]; rfl

/-! ## What the instructions run -/

/-- R122: the access check, then the load. -/
theorem exec_loadAddr (a : Word) (s : State) :
    exec (.loadAddr a) s = ((memRead a.toInt (checkMemAccess a s)).andThen setAc).leaves := rfl

theorem Ran.andThen_assoc {α β γ : Type} (r : Ran α) (k : α → State → Ran β) (l : β → State → Ran γ) :
    (r.andThen k).andThen l = r.andThen fun v t => (k v t).andThen l := by
  cases r <;> rfl

/-- R123: the pointer is read, then the load from where it points. -/
theorem exec_loadindAddr (a : Word) (s : State) :
    exec (.loadindAddr a) s =
      ((memRead a.toInt s).andThen fun p t => (memRead p.toInt t).andThen setAc).leaves :=
  congrArg Ran.leaves (Ran.andThen_assoc (readDirect a s) readDirect setAc)

/-- R123: with the address in range, what remains is the load from the pointer, after one READ. -/
theorem exec_loadindAddr_in (a : Word) (s : State) (h : 0 ≤ a.toInt) (h' : a.toInt ≤ 1999) :
    exec (.loadindAddr a) s =
      ((memRead (Memory.read s.mem a.toNat).toInt (send ⟨.read, a, 0⟩ s)).andThen setAc).leaves := by
  rw [exec_loadindAddr, memRead_word_in a s h h', Ran.andThen_done]

/-- R126, R203: from the stack bound on, fatal before the range check. -/
theorem exec_loadSpx_bound (s : State) (h : 999 ≤ stackAddr s) :
    exec .loadSpx s = .next (raise .stackBound (stackAddr s) s) := by
  change ((readStack s).andThen setAc).leaves = _
  rw [readStack_bound s h]; rfl

/-- R126: below the stack bound, an ordinary load. -/
theorem exec_loadSpx_below (s : State) (h : stackAddr s < 999) :
    exec .loadSpx s = ((memRead (stackAddr s) s).andThen setAc).leaves := by
  change ((readStack s).andThen setAc).leaves = _
  rw [readStack_below s h]

/-- R127: the store is one round trip. -/
theorem exec_storeAddr (a : Word) (s : State) : exec (.storeAddr a) s = (memWrite a.toInt s.ac s).leaves := rfl

/-! ## The statements -/

/-- Settles O23: AC is written with the operand, and no request is made. -/
theorem loadValueRule : Obligations.LoadValueRule := by
  intro s v
  exact ⟨rfl, rfl⟩

/-- Settles O24: the load starts in the state the access check leaves (`checkMemAccess_eq`), so what the check emitted stands
whether the read is in range or not. -/
theorem loadAddrRule : Obligations.LoadAddrRule := by
  intro s a
  simp only [exec_loadAddr, checkMemAccess_eq]
  refine ⟨rfl, fun h h' => ?_, fun hout => ?_⟩
  · rw [memRead_setAc_word_in a _ h h']
  · rw [memRead_setAc_out _ hout]; rfl

/-- Settles O25: an address in range leaves the load from its pointer, which starts after the first READ. -/
theorem loadIndirectRule : Obligations.LoadIndirectRule := by
  intro s a p
  refine ⟨rfl, fun ha ha' hp hp' => ?_, fun hout => ?_, fun ha ha' hout => ?_⟩
  · rw [exec_loadindAddr_in a s ha ha', memRead_setAc_word_in p _ hp hp', send_requests, List.append_assoc]
    rfl
  · rw [exec_loadindAddr, memRead_out s (by omega)]
    rfl
  · rw [exec_loadindAddr_in a s ha ha', memRead_setAc_out _ hout]
    rfl

/-- Settles O26: both instructions are a load from the exact sum, with the index register X or Y. -/
theorem loadIndexedRule : Obligations.LoadIndexedRule := by
  intro s a
  refine ⟨rfl, rfl, ?_, ?_, ?_, ?_⟩
  · rintro ea rfl h h'
    exact memRead_setAc_in s h h'
  · rintro ea rfl hout
    exact memRead_setAc_out s hout
  · rintro ea rfl h h'
    exact memRead_setAc_in s h h'
  · rintro ea rfl hout
    exact memRead_setAc_out s hout

/-- Settles O27: the bound test splits the sum at 999; below it the load's own range check is left, which only a negative sum
fails. -/
theorem loadStackRule : Obligations.LoadStackRule := by
  intro s ea hea
  obtain rfl : ea = stackAddr s := hea
  refine ⟨rfl, rfl, fun h h' => ?_, fun hbound => ?_, fun hneg => ?_⟩
  · rw [exec_loadSpx_below s h', memRead_setAc_in s h (by omega)]
    rfl
  · rw [exec_loadSpx_bound s hbound]
    rfl
  · rw [exec_loadSpx_below s (by omega), memRead_setAc_out s (.inl hneg)]
    rfl

/-- Settles O28: the memory left is the written one, whose reads `Memory.read_write` gives. -/
theorem storeRule : Obligations.StoreRule := by
  intro s a
  refine ⟨rfl, fun h h' => ⟨Memory.write s.mem a.toNat s.ac, ?_, ?_, fun b hb => ?_⟩, fun hout => ?_⟩
  · rw [exec_storeAddr, memWrite_word_in a s.ac s h h']
    rfl
  · rw [Memory.read_write, if_pos rfl]
  · rw [Memory.read_write, if_neg hb]
  · rw [exec_storeAddr, memWrite_out s.ac s (by omega)]
    rfl

end Sys2Proof.Machine
end


section
/-! Input and output, opcodes 8 and 9 (R140, R141). -/

namespace Sys2Proof.Machine

/-! ## What the instructions run -/

/-- R140: AC takes the draw at the counter, and the counter moves on. -/
theorem exec_get (s : State) : exec .get s = .next { s with ac := drawValue s.draws, draws := s.draws + 1 } := rfl

/-- R141: the port decides; the model compares signed values, which for words is equality of the words. -/
theorem exec_put (p : Word) (s : State) :
    exec (.put p) s = .next (if p = 1 then emit .outDec s.ac s
      else if p = 2 then emit .outChr s.ac s
      else raise .illegalPort p.toInt s) := by
  have port_one : p.toInt = 1 ↔ p = 1 := BitVec.toInt_inj (y := (1 : Word))
  have port_two : p.toInt = 2 ↔ p = 2 := BitVec.toInt_inj (y := (2 : Word))
  change execPut p s = _
  simp only [execPut, port_one, port_two, apply_ite Host.Outcome.next]

/-! ## The statements -/

/-- Settles O29: the value loaded is the draw at the counter, which `drawValue_range` bounds. -/
theorem getRule : Obligations.GetRule := by
  intro s
  obtain ⟨hlow, hhigh⟩ := drawValue_range s.draws
  exact ⟨rfl, drawValue s.draws, s.draws + 1, hlow, hhigh, exec_get s⟩

/-- Settles O30: `exec_put` at port 1, at port 2, and at any other port. -/
theorem putRule : Obligations.PutRule := by
  intro s p
  refine ⟨rfl, rfl, ?_, ?_, fun h1 h2 => ?_⟩
  · rintro rfl
    exact exec_put 1 s
  · rintro rfl
    exact exec_put 2 s
  · rw [exec_put, if_neg h1, if_neg h2]
    rfl

end Sys2Proof.Machine
end


section
/-! Arithmetic, register copies, increment and decrement, opcodes 10 to 19, 25 and 26 (R150 to R162). -/

namespace Sys2Proof.Machine

/-! ## The arithmetic of words -/

theorem toInt_addWords (a b : Word) : (addWords a b).toInt = (a.toInt + b.toInt).bmod 4294967296 := toInt_wrap _

theorem toInt_subWords (a b : Word) : (subWords a b).toInt = (a.toInt - b.toInt).bmod 4294967296 := toInt_wrap _

/-- R161: one more; only the top of the range wraps. -/
theorem toInt_addWords_one (w : Word) :
    (addWords w 1).toInt = if w.toInt = 2147483647 then -2147483648 else w.toInt + 1 := by
  have hw := toInt_range w
  split
  case isTrue top =>
    rw [toInt_addWords, top]
    rfl
  case isFalse below => exact toInt_wrap_of_range (w.toInt + 1) (by omega) (by omega)

/-- R162: one less; only the bottom of the range wraps. -/
theorem toInt_subWords_one (w : Word) :
    (subWords w 1).toInt = if w.toInt = -2147483648 then 2147483647 else w.toInt - 1 := by
  have hw := toInt_range w
  split
  case isTrue bottom =>
    rw [toInt_subWords, bottom]
    rfl
  case isFalse above => exact toInt_wrap_of_range (w.toInt - 1) (by omega) (by omega)

/-! ## What the copies run -/

/-- R159: AC is written through the multiplexer. -/
theorem exec_copyToSp (s : State) : exec .copyToSp s = .next (s.setSp s.ac) := rfl

/-- R160: AC is read through the multiplexer. -/
theorem exec_copyFromSp (s : State) : exec .copyFromSp s = .next { s with ac := s.sp } := rfl

/-! ## The statements -/

/-- Settles O31: each of the four delivers `addWords` or `subWords` of AC and the register, whose signed value is the wrapped
exact result. -/
theorem addSubRule : Obligations.AddSubRule := by
  intro s
  refine ⟨⟨rfl, addWords s.ac s.x, rfl, ?_⟩, ⟨rfl, addWords s.ac s.y, rfl, ?_⟩,
    ⟨rfl, subWords s.ac s.x, rfl, ?_⟩, ⟨rfl, subWords s.ac s.y, rfl, ?_⟩⟩
  · exact toInt_addWords s.ac s.x
  · exact toInt_addWords s.ac s.y
  · exact toInt_subWords s.ac s.x
  · exact toInt_subWords s.ac s.y

/-- Settles O32: X is written with `addWords` or `subWords` of X and one, which wraps at one end of the range only. -/
theorem incDecRule : Obligations.IncDecRule := by
  intro s
  refine ⟨rfl, rfl, ⟨addWords s.x 1, rfl, ?_⟩, ⟨subWords s.x 1, rfl, ?_⟩⟩
  · exact toInt_addWords_one s.x
  · exact toInt_subWords_one s.x

/-- Settles O34: the copies go through the multiplexer, which the mode resolves to USP or SSP (R28). -/
theorem stackPointerCopyRule : Obligations.StackPointerCopyRule := by
  intro s
  simp only [exec_copyToSp, exec_copyFromSp]
  refine ⟨rfl, rfl, fun huser => ?_, fun hsystem => ?_⟩
  · rw [setSp_user s s.ac huser, sp_user s huser]
    exact ⟨rfl, rfl⟩
  · rw [setSp_system s s.ac hsystem, sp_system s hsystem]
    exact ⟨rfl, rfl⟩

end Sys2Proof.Machine
end


section
/-! Control transfer, opcodes 20 to 24 (R171 to R175). -/

namespace Sys2Proof.Machine

/-! ## Push and pop, the address as a word -/

/-- The stack pointer is a register apart from the request trace. -/
theorem setSp_send (r : Request) (s : State) (v : Word) : (send r s).setSp v = send r (s.setSp v) := by
  cases h : s.mode with
  | user => rw [setSp_user s v h, setSp_user (send r s) v h]; rfl
  | system => rw [setSp_system s v h, setSp_system (send r s) v h]; rfl

/-- R59: a WRITE to the address below a word carries that word less one. -/
theorem Request.write_toInt_sub_one (w v : Word) : Request.write (w.toInt - 1) v = ⟨.write, w - 1, v⟩ :=
  congrArg (Request.mk .write · v) (wrap_sub_one w)

/-- R180: a push in range, with its address as a word. -/
theorem pushWord_word_in (v : Word) (s : State) (h : 1 ≤ s.sp.toInt) (h' : s.sp.toInt ≤ 2000) :
    pushWord v s = .done () { s.setSp (s.sp - 1) with
      mem := Memory.write s.mem (s.sp.toNat - 1) v,
      requests := s.requests ++ [⟨.write, s.sp - 1, v⟩] } := by
  have haddr : (s.sp.toInt - 1).toNat = s.sp.toNat - 1 := by
    rw [← toNat_toInt s.sp (by omega)]
    omega
  rw [pushWord_in v s h h', haddr, Request.write_toInt_sub_one, send, setSp_requests]
  rfl

/-- R181: a pop in range, with its address as a word. -/
theorem popWord_word_in (s : State) (h : 0 ≤ s.sp.toInt) (h' : s.sp.toInt ≤ 1999) :
    popWord s = .done (Memory.read s.mem s.sp.toNat) { s.setSp (s.sp + 1) with
      requests := s.requests ++ [⟨.read, s.sp, 0⟩] } := by
  rw [popWord_in s h h', Request.read_toInt, setSp_send, send, setSp_requests]
  rfl

/-! ## What the instructions run -/

/-- R34: the model tests the signed value of AC, which is zero for the zero word alone. -/
theorem acIsZero_iff (s : State) : acIsZero s = true ↔ s.ac = 0 := by
  rw [acIsZero, decide_eq_true_iff]
  exact BitVec.toInt_inj (y := (0 : Word))

/-- R171: the target is taken unchecked. -/
theorem exec_jump (a : Word) (s : State) : exec (.jump a) s = .next { s with pc := a } := rfl

/-- R172: taken where AC is zero. -/
theorem exec_jumpIfZero (a : Word) (s : State) :
    exec (.jumpIfZero a) s = if s.ac = 0 then .next { s with pc := a } else .next s := by
  change execJumpIfZero a s = _
  simp only [execJumpIfZero, acIsZero_iff]

/-- R173: taken where AC is not zero. -/
theorem exec_jumpIfNonzero (a : Word) (s : State) :
    exec (.jumpIfNonzero a) s = if s.ac = 0 then .next s else .next { s with pc := a } := by
  change execJumpIfNonzero a s = _
  simp only [execJumpIfNonzero, acIsZero_iff]

/-- R174: the push, then the jump. -/
theorem exec_call (a : Word) (s : State) :
    exec (.call a) s = ((pushWord s.pc s).andThen fun _ t => .done () { t with pc := a }).leaves := rfl

/-- R175: the pop, then the jump to the word popped. -/
theorem exec_ret (s : State) :
    exec .ret s = ((popWord s).andThen fun v t => .done () { t with pc := v }).leaves := rfl

/-! ## The statements -/

/-- Settles O36: in range each is its push or pop with PC replaced; out of range the push or pop has raised, and the jump after it
does not happen. -/
theorem callRetRule : Obligations.CallRetRule := by
  intro s a
  refine ⟨rfl, rfl, fun h h' => ?_, fun hout => ?_, fun h h' => ?_, fun hout => ?_⟩
  · rw [exec_call, pushWord_word_in s.pc s h h']
    rfl
  · rw [exec_call, pushWord_out s.pc s (by omega)]
    rfl
  · rw [exec_ret, popWord_word_in s h h']
    rfl
  · rw [exec_ret, popWord_out s (by omega)]
    rfl

/-- Settles O35: the two conditional jumps take the opposite branches of one test of AC. -/
theorem jumpRule : Obligations.JumpRule := by
  intro s a
  rw [exec_jumpIfZero, exec_jumpIfNonzero]
  refine ⟨⟨rfl, exec_jump a s⟩, rfl, rfl, fun hzero => ?_, fun hnonzero => ?_⟩
  · rw [if_pos hzero, if_pos hzero]
    exact ⟨rfl, rfl⟩
  · rw [if_neg hnonzero, if_neg hnonzero]
    exact ⟨rfl, rfl⟩

end Sys2Proof.Machine
end


section
/-! The stack, opcodes 27 and 28 (R182, R183). -/

namespace Sys2Proof.Machine

/-- R182: the push of AC. -/
theorem exec_push (s : State) : exec .push s = (pushWord s.ac s).leaves := rfl

/-- R183: the pop, then AC set to the word popped. -/
theorem exec_pop (s : State) :
    exec .pop s = ((popWord s).andThen fun v t => .done () { t with ac := v }).leaves := rfl

/-- Settles O37: PUSH is the push of AC; POP is the pop with AC replaced by the word popped, and where the pop has raised AC is not
written. -/
theorem pushPopRule : Obligations.PushPopRule := by
  intro s
  refine ⟨rfl, rfl, fun h h' => ?_, fun hout => ?_, fun h h' => ?_, fun hout => ?_⟩
  · rw [exec_push, pushWord_word_in s.ac s h h']
    rfl
  · rw [exec_push, pushWord_out s.ac s (by omega)]
    rfl
  · rw [exec_pop, popWord_word_in s h h']
    rfl
  · rw [exec_pop, popWord_out s (by omega)]
    rfl

end Sys2Proof.Machine
end


section
/-! Trap entry and return, opcodes 29 and 30 (R190, R192). -/

namespace Sys2Proof.Machine

/-! ## The trap entry, its addresses as words -/

/-- R224: SSP from 2 to 2000. -/
theorem trapEntry_word_in (v : Word) (s : State) (h : 2 ≤ s.ssp.toInt) (h' : s.ssp.toInt ≤ 2000) :
    trapEntry v s = .done () { s with
      mode := .system, ssp := s.ssp - 2, pc := v,
      mem := Memory.write (Memory.write s.mem (s.ssp.toNat - 1) s.pc) (s.ssp.toNat - 2) s.usp,
      requests := s.requests ++ [⟨.write, s.ssp - 1, s.pc⟩, ⟨.write, s.ssp - 2, s.usp⟩] } := by
  rcases trapEntry_cases v s with ⟨-, -, hdone⟩ | ⟨hone, -⟩ | ⟨hout, -⟩
  · have hpc : (s.ssp.toInt - 1).toNat = s.ssp.toNat - 1 := by
      rw [← toNat_toInt s.ssp (by omega)]
      omega
    have husp : (s.ssp.toInt - 2).toNat = s.ssp.toNat - 2 := by
      rw [← toNat_toInt s.ssp (by omega)]
      omega
    have hssp : s.ssp - 1#32 - 1#32 = s.ssp - 2 := by bv_omega
    have hreq : Request.write (s.ssp.toInt - 2) s.usp = ⟨.write, s.ssp - 2, s.usp⟩ :=
      congrArg (Request.mk .write · s.usp) (wrap_sub s.ssp 2)
    rw [hdone, hpc, husp, hssp, hreq, Request.write_toInt_sub_one]
  · omega
  · omega

/-- R224: SSP at 1, where the first push is done and the second raises. -/
theorem trapEntry_second_push_out (v : Word) (s : State) (h : s.ssp.toInt = 1) :
    trapEntry v s = .raised { s with
      mode := .system, ssp := 0, mem := Memory.write s.mem 0 s.pc, requests := s.requests ++ [⟨.write, 0, s.pc⟩],
      fault := ⟨.addressRange, -1⟩, run := .faulted, exitStatus := some .failure } := by
  rcases trapEntry_cases v s with ⟨htwo, -⟩ | ⟨-, hraised⟩ | ⟨hout, -⟩
  · omega
  · have hssp : s.ssp = 1 := BitVec.eq_of_toInt_eq h
    rw [hraised, hssp]
    rfl
  · omega

/-- R224: SSP outside 1 to 2000, where the first push raises, in system mode already. -/
theorem trapEntry_first_push_out (v : Word) (s : State) (h : s.ssp.toInt < 1 ∨ 2000 < s.ssp.toInt) :
    trapEntry v s = .raised { s with
      mode := .system, fault := ⟨.addressRange, s.ssp.toInt - 1⟩, run := .faulted, exitStatus := some .failure } := by
  rcases trapEntry_cases v s with ⟨htwo, hmax, -⟩ | ⟨hone, -⟩ | ⟨-, hraised⟩
  · omega
  · omega
  · exact hraised

/-! ## The trap return -/

/-- R181 in system mode, in range. -/
theorem popWord_system_in (s : State) (hm : s.mode = .system) (h : 0 ≤ s.ssp.toInt) (h' : s.ssp.toInt ≤ 1999) :
    popWord s = .done (Memory.read s.mem s.ssp.toNat) { s with
      ssp := s.ssp + 1, requests := s.requests ++ [⟨.read, s.ssp, 0⟩] } := by
  rw [← sp_system s hm] at h h' ⊢
  rw [popWord_word_in s h h', setSp_system s _ hm]

/-- R181 in system mode, out of range. -/
theorem popWord_system_out (s : State) (hm : s.mode = .system) (h : s.ssp.toInt < 0 ∨ 1999 < s.ssp.toInt) :
    popWord s = .raised (raise .addressRange s.ssp.toInt s) := by
  rw [← sp_system s hm] at h ⊢
  exact popWord_out s (by omega)

/-- Between the pops of a return: USP is written and SSP is past it. -/
def uspPopped (s : State) : State :=
  { s with
    usp := Memory.read s.mem s.ssp.toNat, ssp := s.ssp + 1, requests := s.requests ++ [⟨.read, s.ssp, 0⟩] }

/-- R192: the first pop done, the second is what is left, with PC and MODE after it. -/
theorem trapReturn_uspPopped (s : State) (hm : s.mode = .system) (h : 0 ≤ s.ssp.toInt) (h' : s.ssp.toInt ≤ 1999) :
    trapReturn s = (popWord (uspPopped s)).andThen fun p t => .done () { t with pc := p, mode := .user } := by
  rw [trapReturn, popWord_system_in s hm h h']
  rfl

/-- The second pop of a return is at the word after the first. -/
theorem toInt_ssp_uspPopped (s : State) (h : s.ssp.toInt ≤ 1999) : (uspPopped s).ssp.toInt = s.ssp.toInt + 1 :=
  toInt_add_one s.ssp (by omega)

/-- R192: SSP from 0 to 1998. -/
theorem trapReturn_in (s : State) (hm : s.mode = .system) (h : 0 ≤ s.ssp.toInt) (h' : s.ssp.toInt ≤ 1998) :
    trapReturn s = .done () { s with
      usp := Memory.read s.mem s.ssp.toNat, pc := Memory.read s.mem (s.ssp.toNat + 1), ssp := s.ssp + 2, mode := .user,
      requests := s.requests ++ [⟨.read, s.ssp, 0⟩, ⟨.read, s.ssp + 1, 0⟩] } := by
  have hsecond := toInt_ssp_uspPopped s (by omega)
  have hnat : (s.ssp + 1).toNat = s.ssp.toNat + 1 := by
    have hssp := toInt_eq_toNat s.ssp h
    bv_omega
  have hssp : s.ssp + 1 + 1 = s.ssp + 2 := by bv_omega
  rw [trapReturn_uspPopped s hm h (by omega), popWord_system_in (uspPopped s) hm (by omega) (by omega)]
  simp only [uspPopped, Ran.andThen_done, hnat, hssp, List.append_assoc, List.cons_append, List.nil_append]

/-- R192: SSP at 1999, where the first pop is done and USP written, and the second raises. -/
theorem trapReturn_second_pop_out (s : State) (hm : s.mode = .system) (h : s.ssp.toInt = 1999) :
    trapReturn s = .raised { s with
      usp := Memory.read s.mem 1999, ssp := 2000, requests := s.requests ++ [⟨.read, 1999, 0⟩],
      fault := ⟨.addressRange, 2000⟩, run := .faulted, exitStatus := some .failure } := by
  have hsecond := toInt_ssp_uspPopped s (by omega)
  have hssp : s.ssp = 1999 := BitVec.eq_of_toInt_eq h
  rw [trapReturn_uspPopped s hm (by omega) (by omega), popWord_system_out (uspPopped s) hm (by omega), hsecond, h,
    uspPopped, hssp]
  rfl

/-- R192: SSP outside 0 to 1999, where the first pop raises. -/
theorem trapReturn_first_pop_out (s : State) (hm : s.mode = .system) (h : s.ssp.toInt < 0 ∨ 1999 < s.ssp.toInt) :
    trapReturn s = .raised { s with
      fault := ⟨.addressRange, s.ssp.toInt⟩, run := .faulted, exitStatus := some .failure } := by
  rw [trapReturn, popWord_system_out s hm h]
  rfl

/-! ## What the instructions run -/

/-- R190 in user mode. -/
theorem exec_int_user (s : State) (h : s.mode = .user) : exec .int s = (trapEntry 1500 s).leaves := by
  change execInt s = _
  rw [execInt, h]
  rfl

/-- R190 in system mode. -/
theorem exec_int_system (s : State) (h : s.mode = .system) : exec .int s = .next (raise .illegalMode 29 s) := by
  change execInt s = _
  rw [execInt, h]

/-- R192 in system mode. -/
theorem exec_iret_system (s : State) (h : s.mode = .system) : exec .iret s = (trapReturn s).leaves := by
  change execIret s = _
  rw [execIret, h]

/-- R192 in user mode. -/
theorem exec_iret_user (s : State) (h : s.mode = .user) : exec .iret s = .next (raise .illegalMode 30 s) := by
  change execIret s = _
  rw [execIret, h]

/-! ## The statements -/

/-- Settles O40: in user mode INT is the trap entry, whose two pushes are done, or the second raises, or the first; in system mode
it raises before any push. -/
theorem intRule : Obligations.IntRule := by
  intro s
  refine ⟨rfl, rfl, fun hm h h' => ?_, fun hm => ?_, fun hm hone => ?_, fun hm hout => ?_⟩
  · rw [exec_int_user s hm, trapEntry_word_in 1500 s h h']
    rfl
  · exact exec_int_system s hm
  · rw [exec_int_user s hm, trapEntry_second_push_out 1500 s hone]
    rfl
  · rw [exec_int_user s hm, trapEntry_first_push_out 1500 s hout]
    rfl

/-- Settles O41: in system mode IRET is the trap return, whose two pops are done, or the second raises, or the first; in user mode
it raises before any pop. -/
theorem iretRule : Obligations.IretRule := by
  intro s
  refine ⟨rfl, fun hm h h' => ?_, fun hm => ?_, fun hm hlast => ?_, fun hm hout => ?_⟩
  · rw [exec_iret_system s hm, trapReturn_in s hm h h']
    rfl
  · exact exec_iret_user s hm
  · rw [exec_iret_system s hm, trapReturn_second_pop_out s hm hlast]
    rfl
  · rw [exec_iret_system s hm, trapReturn_first_pop_out s hm hout]
    rfl

end Sys2Proof.Machine
end


section
/-! Exceptions: the trap entry and the return to where it came from (R224, R226). -/

namespace Sys2Proof.Machine

open Sys2Proof.Safety

/-! ## The frame -/

/-- R224: a trap entry that succeeds had SSP from 2 to 2000, and leaves the frame in memory and SSP at it. -/
theorem trapEntry_done {v : Word} {s e : State} (h : trapEntry v s = .done () e) :
    2 ≤ s.ssp.toInt ∧ s.ssp.toInt ≤ 2000 ∧ e.ssp = s.ssp - 2 ∧ e.mem = withFrame s := by
  rcases trapEntry_cases v s with ⟨hlow, hhigh, -⟩ | ⟨-, hraised⟩ | ⟨-, hraised⟩
  · rw [trapEntry_word_in v s hlow hhigh] at h
    cases h
    exact ⟨hlow, hhigh, rfl, rfl⟩
  · simp [hraised] at h
  · simp [hraised] at h

/-- R224: the frame's lower word is USP. -/
theorem read_withFrame_usp (s : State) : Memory.read (withFrame s) (s.ssp.toNat - 2) = s.usp := by
  rw [withFrame, Memory.read_write, if_pos rfl]

/-- R224: the frame's upper word is PC. -/
theorem read_withFrame_pc (s : State) (h : 2 ≤ s.ssp.toNat) :
    Memory.read (withFrame s) (s.ssp.toNat - 2 + 1) = s.pc := by
  have hupper : s.ssp.toNat - 2 + 1 = s.ssp.toNat - 1 := by omega
  have hne : s.ssp.toNat - 1 ≠ s.ssp.toNat - 2 := by omega
  rw [hupper, withFrame, Memory.read_write, if_neg hne, Memory.read_write, if_pos rfl]

/-- Two below a word that is at least 2, unsigned and signed alike. -/
theorem sub_two_of_two_le (w : Word) (h : 2 ≤ w.toInt) :
    2 ≤ w.toNat ∧ (w - 2).toNat = w.toNat - 2 ∧ (w - 2).toInt = w.toInt - 2 := by
  have hw := toInt_eq_toNat w (by omega)
  have hnat : (w - 2).toNat = w.toNat - 2 := by bv_omega
  have hint : (w - 2).toInt = w.toInt - 2 := by
    have hrange := toInt_range w
    rw [← wrap_sub w 2]
    exact toInt_wrap_of_range (w.toInt - 2) (by omega) (by omega)
  exact ⟨by omega, hnat, hint⟩

/-! ## The statements -/

/-- Settles O22: by SSP both pushes are done, or the second raises, or the first. -/
theorem trapEntryRule : Obligations.TrapEntryRule := by
  intro s vector _
  exact ⟨trapEntry_word_in vector s, trapEntry_second_push_out vector s, trapEntry_first_push_out vector s⟩

/-- Settles O42: the entry left SSP at its frame (`trapEntry_done`), so the return pops the frame's two words, which are the USP and
PC saved, and raises SSP by the two it was lowered. -/
theorem trapThenIretRestores : Obligations.TrapThenIretRestores := by
  intro s e t vector _ hentry hsystem hssp hframe
  obtain ⟨hlow, hhigh, hessp, hemem⟩ := trapEntry_done hentry
  obtain ⟨htwo, hnat, hint⟩ := sub_two_of_two_le s.ssp hlow
  have haddr : e.ssp.toInt = e.ssp.toNat := toInt_eq_toNat e.ssp (by rw [hessp]; omega)
  have husp : Memory.read t.mem t.ssp.toNat = s.usp := by
    rw [hssp, hframe _ (.inl haddr.symm), hemem, hessp, hnat, read_withFrame_usp]
  have hpc : Memory.read t.mem (t.ssp.toNat + 1) = s.pc := by
    rw [hssp, hframe _ (.inr (by omega)), hemem, hessp, hnat, read_withFrame_pc s htwo]
  have hback : t.ssp + 2 = s.ssp := by rw [hssp, hessp, BitVec.sub_add_cancel]
  refine ⟨[⟨.read, t.ssp, 0⟩, ⟨.read, t.ssp + 1, 0⟩], ?_⟩
  rw [exec_iret_system t hsystem, trapReturn_in t hsystem (by rw [hssp, hessp]; omega) (by rw [hssp, hessp]; omega),
    husp, hpc, hback, Ran.leaves_done]

end Sys2Proof.Machine
end


section
/-! Exceptions: a cycle whose fetch raises, and the illegal opcode (R102, R204). -/

namespace Sys2Proof.Machine

open Sys2Proof.Safety

/-! ## The tick and the preemption check -/

/-- R101: the tick as a record. -/
theorem tick_eq (s : State) : tick s = { s with timer := s.timer - 1 } := by
  rw [tick, wrap_sub_one]
  rfl

/-- R102: the tick makes the interrupt due exactly where the statements say it is. -/
theorem timerDue_tick_iff (s : State) : timerDue (tick s) = true ↔ InterruptDue s := by
  have hone : s.timer.toInt = 1 ↔ s.timer = 1 := BitVec.toInt_inj (y := (1 : Word))
  simp only [timerDue, decide_eq_true_iff, tick_timer_eq_sub, toInt_sub_one_eq_zero_iff, tick_mode, InterruptDue, hone]

/-- R102: no interrupt due, and the cycle goes on from the tick. -/
theorem preempt_tick_of_not_due (s : State) (h : ¬InterruptDue s) :
    preempt (tick s) = .done () { s with timer := s.timer - 1 } := by
  rw [preempt, if_neg (mt (timerDue_tick_iff s).1 h), tick_eq]

/-- R102: an interrupt due is the trap entry at 1000, with TIMER at zero. -/
theorem preempt_tick_of_due (s : State) (h : InterruptDue s) :
    preempt (tick s) = trapEntry 1000 { s with timer := 0 } := by
  have htimer : s.timer = 1 := BitVec.eq_of_toInt_eq h.1
  rw [preempt, if_pos ((timerDue_tick_iff s).2 h), tick_eq, htimer]
  rfl

/-- R9, R60: the timer handler's address exists. -/
theorem timerVector_inMemory : 0 ≤ (1000 : Word).toInt ∧ (1000 : Word).toInt ≤ 1999 := by decide

/-- R102, R224: an interrupt due, with room for the frame: the cycle goes on at 1000 in system mode. -/
theorem preempt_tick_of_due_in (s : State) (h : InterruptDue s) (hlow : 2 ≤ s.ssp.toInt) (hhigh : s.ssp.toInt ≤ 2000) :
    preempt (tick s) = .done () { s with
      timer := 0, mode := .system, ssp := s.ssp - 2, mem := withFrame s, pc := 1000,
      requests := s.requests ++ frameRequests s } := by
  rw [preempt_tick_of_due s h]
  exact trapEntry_word_in 1000 { s with timer := 0 } hlow hhigh

/-! ## A cycle whose fetch raises -/

/-- R100, R201: nothing in the cycle happens after a fetch that raises. -/
theorem step_of_fetchInstr_raised {s u t : State} (hr : s.run = .running) (ha : s.firstUnanswered = none)
    (hp : preempt (tick s) = .done () u) (hf : fetchInstr u = .raised t) : step s = .next t := by
  rw [step_of_answered hr ha, runCycle, hp, Ran.andThen_done, hf]

/-! ## The illegal opcode -/

/-- R85, R91: every row compares the whole word, with a number from 1 to 30 or 50. -/
theorem opcodeTable_rows :
    ∀ r ∈ opcodeTable, r.mask = BitVec.allOnes 32 ∧ (1 ≤ r.pattern.toInt ∧ r.pattern.toInt ≤ 30 ∨ r.pattern.toInt = 50) := by
  decide

/-- R86: a word that is none of the numbers matches no row. -/
theorem lookupOpcode_eq_none (w : Word) (hrange : ¬(1 ≤ w.toInt ∧ w.toInt ≤ 30)) (hend : w.toInt ≠ 50) :
    lookupOpcode w = none := by
  refine List.find?_eq_none.2 fun r hr hmatch => ?_
  obtain ⟨hmask, hpattern⟩ := opcodeTable_rows r hr
  have hw : w = r.pattern := by rwa [hmask, BitVec.and_allOnes, beq_iff_eq] at hmatch
  rw [← hw] at hpattern
  exact hpattern.elim hrange hend

/-- R204: the dispatcher raises on an illegal word, after its fetch. -/
theorem fetchInstr_illegalOpcode {w : Word} (s : State) (hrange : ¬(1 ≤ w.toInt ∧ w.toInt ≤ 30)) (hend : w.toInt ≠ 50)
    (h : 0 ≤ s.pc.toInt) (h' : s.pc.toInt ≤ 1999) (hw : Memory.read s.mem s.pc.toNat = w) :
    fetchInstr s = .raised { s with
      pc := s.pc + 1, requests := s.requests ++ [⟨.read, s.pc, 0⟩],
      fault := ⟨.illegalOpcode, w.toInt⟩, run := .faulted, exitStatus := some .failure } := by
  rw [fetchInstr, fetchWord_in s h h', Ran.andThen_done, hw, lookupOpcode_eq_none w hrange hend, Request.read_toInt]
  rfl

/-- Settles O12: the fetch of such a word raises (`fetchInstr_illegalOpcode`), and the step is that fetch from where the preemption
check leaves the cycle: at PC, or at 1000 with the frame pushed. -/
theorem illegalOpcodeFaults : Obligations.IllegalOpcodeFaults := by
  intro s w hrange hend
  refine ⟨rfl, fun h h' hw => ⟨fetchInstr_illegalOpcode s hrange hend h h' hw, fun hr ha hdue => ?_⟩,
    fun hr ha hdue hlow hhigh hw => ?_⟩
  · exact step_of_fetchInstr_raised hr ha (preempt_tick_of_not_due s hdue)
      (fetchInstr_illegalOpcode _ hrange hend h h' hw)
  · exact step_of_fetchInstr_raised hr ha (preempt_tick_of_due_in s hdue hlow hhigh)
      (fetchInstr_illegalOpcode _ hrange hend timerVector_inMemory.1 timerVector_inMemory.2 hw)

end Sys2Proof.Machine
end

section
/-! The encoding (R80 to R91): decoding and encoding invert each other, and which words are illegal opcodes. -/

namespace Sys2Proof

/-- R85: every instruction's opcode word selects the row that builds it back. -/
theorem encoding_row (i : Instr) : Laws.Encoding.Statement i := by
  cases i with
  | loadValue v => exact Laws.Encoding.loadValue v
  | loadAddr a => exact Laws.Encoding.loadAddr a
  | loadindAddr a => exact Laws.Encoding.loadindAddr a
  | loadidxX a => exact Laws.Encoding.loadidxX a
  | loadidxY a => exact Laws.Encoding.loadidxY a
  | loadSpx => exact Laws.Encoding.loadSpx
  | storeAddr a => exact Laws.Encoding.storeAddr a
  | get => exact Laws.Encoding.get
  | put p => exact Laws.Encoding.put p
  | addX => exact Laws.Encoding.addX
  | addY => exact Laws.Encoding.addY
  | subX => exact Laws.Encoding.subX
  | subY => exact Laws.Encoding.subY
  | copyToX => exact Laws.Encoding.copyToX
  | copyFromX => exact Laws.Encoding.copyFromX
  | copyToY => exact Laws.Encoding.copyToY
  | copyFromY => exact Laws.Encoding.copyFromY
  | copyToSp => exact Laws.Encoding.copyToSp
  | copyFromSp => exact Laws.Encoding.copyFromSp
  | jump a => exact Laws.Encoding.jump a
  | jumpIfZero a => exact Laws.Encoding.jumpIfZero a
  | jumpIfNonzero a => exact Laws.Encoding.jumpIfNonzero a
  | call a => exact Laws.Encoding.call a
  | ret => exact Laws.Encoding.ret
  | incX => exact Laws.Encoding.incX
  | decX => exact Laws.Encoding.decX
  | push => exact Laws.Encoding.push
  | pop => exact Laws.Encoding.pop
  | int => exact Laws.Encoding.int
  | iret => exact Laws.Encoding.iret
  | endRun => exact Laws.Encoding.endRun

/-- R85, R82: what each row builds has the row's number as its opcode word, and an operand exactly where the format says so. -/
theorem opcodeTable_build :
    ∀ r ∈ opcodeTable, ∀ v, (r.build v).opcodeWord = r.pattern ∧
      (r.build v).operand? = match r.format with | .n => none | .a => some v := by
  simp only [opcodeTable, rowA, rowN, List.cons_append, List.nil_append, List.forall_mem_cons, List.not_mem_nil,
    false_implies, implies_true, Instr.opcodeWord, Instr.operand?, and_self]

/-- R91: the whole word is compared, so the row found is a row of the table with that word as its number. -/
theorem lookupOpcode_eq_some {w : Word} {r : OpcodeRow} (h : lookupOpcode w = some r) : r ∈ opcodeTable ∧ r.pattern = w := by
  have hrow : r ∈ opcodeTable := List.mem_of_find?_eq_some h
  have hmatch := List.find?_some h
  rw [(Machine.opcodeTable_rows r hrow).1, BitVec.and_allOnes, beq_iff_eq] at hmatch
  exact ⟨hrow, hmatch.symm⟩

/-- R85: an instruction built from the row of a word has that opcode word. -/
theorem opcodeWord_build {w : Word} {r : OpcodeRow} (h : lookupOpcode w = some r) (v : Word) :
    (r.build v).opcodeWord = w := by
  obtain ⟨hrow, hpattern⟩ := lookupOpcode_eq_some h
  exact (opcodeTable_build r hrow v).1.trans hpattern

/-- R82: the operand of an instruction built from the row of a word, by the row's format. -/
theorem operand_build {w : Word} {r : OpcodeRow} (h : lookupOpcode w = some r) (v : Word) :
    (r.build v).operand? = match r.format with | .n => none | .a => some v :=
  (opcodeTable_build r (lookupOpcode_eq_some h).1 v).2

/-- R86: a legal opcode word finds a row. -/
theorem lookupOpcode_eq_none_iff (w : Word) :
    lookupOpcode w = none ↔ ¬(1 ≤ w.toInt ∧ w.toInt ≤ 30) ∧ w.toInt ≠ 50 := by
  refine ⟨fun hnone => ⟨fun ⟨hlow, hhigh⟩ => ?_, fun hend => ?_⟩, fun ⟨hrange, hend⟩ =>
    Machine.lookupOpcode_eq_none w hrange hend⟩
  · have legal : ∀ n ≤ 30, 1 ≤ n → lookupOpcode (BitVec.ofNat 32 n) ≠ none := by decide
    have hw := Machine.toInt_eq_toNat w (by omega)
    apply legal w.toNat (by omega) (by omega)
    rwa [BitVec.ofNat_toNat, BitVec.setWidth_eq]
  · obtain rfl : w = 50 := BitVec.eq_of_toInt_eq hend
    exact absurd hnone (by decide)

/-- R86: the decoder rejects exactly the words that find no row. -/
theorem decode_eq_illegalOpcode_iff (w : Word) (ws : List Word) :
    decode (w :: ws) = .illegalOpcode w ↔ lookupOpcode w = none := by
  rw [decode]
  cases lookupOpcode w with
  | none => simp
  | some r => cases hf : r.format <;> cases ws <;> simp [hf]

/-! ## The statements -/

/-- Settles O1: the opcode word finds the instruction's row (`encoding_row`), whose format takes as many words as `encode` wrote. -/
theorem decodeInvertsEncode : Obligations.DecodeInvertsEncode := by
  intro i rest
  obtain ⟨r, hr, ⟨hf, ho, hb⟩ | ⟨hf, v, ho, hb⟩⟩ := encoding_row i
  · simpa [encode, decode, hr, ho, hf] using hb
  · simpa [encode, decode, hr, ho, hf] using hb

/-- Settles O2: the row a word finds builds an instruction with that opcode word and, in format A, that operand. -/
theorem encodeInvertsDecode : Obligations.EncodeInvertsDecode := by
  intro ws i rest h
  cases ws with
  | nil => simp [decode] at h
  | cons w ws =>
    rw [decode] at h
    cases hr : lookupOpcode w with
    | none => simp [hr] at h
    | some r =>
      cases hf : r.format with
      | n =>
        obtain ⟨rfl, rfl⟩ : r.build 0 = i ∧ ws = rest := by simpa [hr, hf] using h
        simp [encode, opcodeWord_build hr, operand_build hr, hf]
      | a =>
        cases ws with
        | nil => simp [hr, hf] at h
        | cons v ws =>
          obtain ⟨rfl, rfl⟩ : r.build v = i ∧ ws = rest := by simpa [hr, hf] using h
          simp [encode, opcodeWord_build hr, operand_build hr, hf]

/-- Settles O3: rejection is a word with no row (`decode_eq_illegalOpcode_iff`), and the ranges are the complement of 1 to 30 and 50. -/
theorem illegalOpcodeWords : Obligations.IllegalOpcodeWords := by
  intro w ws
  rw [decode_eq_illegalOpcode_iff, lookupOpcode_eq_none_iff]
  omega

/-- Settles O4: ten fixed words, decoded. -/
theorem opcodeMapWords : Obligations.OpcodeMapWords := by
  unfold Obligations.OpcodeMapWords
  decide

end Sys2Proof
end

section
/-! The shared operations: the arbiter's range check, a read after a write, and the active stack pointer (R28, R55 to R62, R69). -/

namespace Sys2Proof.Machine

/-- Settles O17: both halves of the multiplexer, by the mode. -/
theorem activeStackPointer : Obligations.ActiveStackPointer := by
  intro s v
  refine ⟨fun huser => ⟨sp_user s huser, setSp_user s v huser⟩, fun hsystem => ⟨sp_system s hsystem, setSp_system s v hsystem⟩⟩

/-- Settles O19: the round trips inside (`memRead_in`, `memWrite_in`) and outside (`memRead_out`, `memWrite_out`). -/
theorem rangeCheck : Obligations.RangeCheck := by
  intro s a v
  refine ⟨fun hout => ⟨memRead_out s (by omega), memWrite_out v s (by omega)⟩,
    fun h h' => ⟨memRead_in s h h', memWrite_in v s h h'⟩⟩

/-- R62: a write that is done was in range, sent one WRITE and stored. -/
theorem memWrite_eq_done {a : Int} {v : Word} {s t : State} (h : memWrite a v s = .done () t) :
    0 ≤ a ∧ a ≤ 1999 ∧ t = { send (.write a v) s with mem := Memory.write s.mem a.toNat v } := by
  by_cases ha : 0 ≤ a ∧ a ≤ 1999
  · rw [memWrite_in v s ha.1 ha.2] at h
    cases h
    exact ⟨ha.1, ha.2, rfl⟩
  · rw [memWrite_out v s ha] at h
    cases h

/-- Settles O18: the write was in range, so the read after it is `Memory.read_write`. -/
theorem readAfterWrite : Obligations.ReadAfterWrite := by
  intro s t a b v h hb hb'
  obtain ⟨ha, -, rfl⟩ := memWrite_eq_done h
  refine ⟨_, _, memRead_in _ hb hb', rfl, ?_, fun hne => ⟨send (.read b) s, ?_⟩⟩
  · rintro rfl
    exact (Memory.read_write s.mem b.toNat v b.toNat).trans (if_pos rfl)
  · have haddr : b.toNat ≠ a.toNat := by omega
    rw [memRead_in s hb hb', Memory.read_write, if_neg haddr]

/-- R104: a fetch in range gives the word memory holds at PC. -/
theorem fetchWord_of_read {s : State} {w : Word} (h : 0 ≤ s.pc.toInt) (h' : s.pc.toInt ≤ 1999)
    (hw : Memory.read s.mem s.pc.toNat = w) : ∃ u, fetchWord s = .done w u ∧ u.pc = s.pc + 1 :=
  ⟨_, by rw [fetchWord_in s h h', hw], rfl⟩

/-- Settles O20: a store that left the unit running was in range, and the fetch after it is a read of the word stored. -/
theorem storeSeenByNextFetch : Obligations.StoreSeenByNextFetch := by
  rintro s t a h hrun rfl -
  rw [exec_storeAddr] at h
  by_cases ha : 0 ≤ s.pc.toInt ∧ s.pc.toInt ≤ 1999
  · rw [memWrite_word_in s.pc s.ac s ha.1 ha.2] at h
    cases h
    refine fetchWord_of_read ?_ ?_ ?_
    · exact ha.1
    · exact ha.2
    · exact (Memory.read_write s.mem _ s.ac _).trans (if_pos rfl)
  · rw [memWrite_out s.ac s ha] at h
    cases h
    cases hrun

end Sys2Proof.Machine
end


section
/-! Copies and END (R155 to R158, R194). -/

namespace Sys2Proof.Machine

/-- Settles O33: each copy writes the one register. -/
theorem copyRule : Obligations.CopyRule := by
  intro s
  exact ⟨⟨rfl, rfl⟩, ⟨rfl, rfl⟩, ⟨rfl, rfl⟩, rfl, rfl⟩

/-- R194: END is the halt. -/
theorem exec_endRun (s : State) : exec .endRun s = .next (halt s) := rfl

/-- Settles O43: the halt with a Memory Engine that exits (`halt_exits`), and with one that never does (`halt_stays`). -/
theorem endRule : Obligations.EndRule := by
  intro s
  refine ⟨rfl, rfl, fun hexits => ?_, fun hnever => ?_⟩
  · rw [exec_endRun, halt_exits s ((Lapse.exits_iff s.lapse).2 hexits)]
    rfl
  · rw [exec_endRun, halt_stays s (by rw [hnever]; rfl)]
    rfl

/-- Settles O44: every meaning answers, as `exec_keepsClock` found on the way. -/
theorem everyInstructionAnswers : Obligations.EveryInstructionAnswers := by
  intro i s
  obtain ⟨t, ht, -⟩ := exec_keepsClock i s
  exact ⟨t, ht⟩

end Sys2Proof.Machine
end


section
/-! A push and then a pop: the pointer and the word come back (R182, R183, R174, R175). -/

namespace Sys2Proof.Machine

/-- R180: the state a push in range leaves. -/
def pushed (v : Word) (s : State) : State :=
  { s.setSp (s.sp - 1) with
    mem := Memory.write s.mem (s.sp.toNat - 1) v
    requests := s.requests ++ [⟨.write, s.sp - 1, v⟩] }

@[simp] theorem pushed_sp (v : Word) (s : State) : (pushed v s).sp = s.sp - 1 := sp_setSp s (s.sp - 1)

/-- R180, R181: SP after a push points at the word pushed, and one above it is where SP was. -/
theorem sp_sub_one_of_push (w : Word) (h : 1 ≤ w.toInt) (h' : w.toInt ≤ 2000) :
    0 ≤ (w - 1).toInt ∧ (w - 1).toInt ≤ 1999 ∧ (w - 1).toNat = w.toNat - 1 := by
  have hint : (w - 1).toInt = w.toInt - 1 := toInt_sub_one w (by omega)
  have hpos : 0 ≤ (w - 1).toInt := by omega
  have hnat := toNat_toInt (w - 1) hpos
  have hnat' := toNat_toInt w (by omega)
  exact ⟨hpos, by omega, by omega⟩

/-- R180, R181: the state that is left when a push is followed by a pop with PC at `p`. -/
def pushedPopped (v p : Word) (s : State) : State :=
  { s with
    pc := p
    mem := Memory.write s.mem (s.sp.toNat - 1) v
    requests := s.requests ++ [⟨.write, s.sp - 1, v⟩, ⟨.read, s.sp - 1, 0⟩] }

/-- R180, R181: a pop after a push, wherever PC has gone, gives the word pushed and SP as it was. -/
theorem popWord_pushed (v p : Word) (s : State) (h : 1 ≤ s.sp.toInt) (h' : s.sp.toInt ≤ 2000) :
    popWord { pushed v s with pc := p } = .done v (pushedPopped v p s) := by
  obtain ⟨hlow, hhigh, hnat⟩ := sp_sub_one_of_push s.sp h h'
  have hsp : State.sp { pushed v s with pc := p } = s.sp - 1 := pushed_sp v s
  rw [popWord_word_in _ (by rwa [hsp]) (by rwa [hsp]), hsp, hnat, BitVec.sub_add_cancel]
  cases hm : s.mode <;> simp [pushed, pushedPopped, State.setSp, State.sp, hm]

/-- R182: PUSH in range is the push of AC. -/
theorem exec_push_in (s : State) (h : 1 ≤ s.sp.toInt) (h' : s.sp.toInt ≤ 2000) :
    exec .push s = .next (pushed s.ac s) := by
  rw [exec_push, pushWord_word_in s.ac s h h']
  rfl

/-- R174: CALL in range is the push of PC, and the jump. -/
theorem exec_call_in (a : Word) (s : State) (h : 1 ≤ s.sp.toInt) (h' : s.sp.toInt ≤ 2000) :
    exec (.call a) s = .next { pushed s.pc s with pc := a } := by
  rw [exec_call, pushWord_word_in s.pc s h h']
  rfl

/-- Settles O38: POP gives back the AC that PUSH pushed (`popWord_pushed`), and PUSH wrote the one word below SP. -/
theorem pushThenPopRestores : Obligations.PushThenPopRestores := by
  intro s h h'
  have hpop : popWord (pushed s.ac s) = .done s.ac (pushedPopped s.ac s.pc s) := by
    rw [← popWord_pushed s.ac s.pc s h h', pushed, setSp_pc]
  refine ⟨pushed s.ac s, pushedPopped s.ac s.pc s, exec_push_in s h h', ?_, rfl, fun b hb => ?_⟩
  · rw [exec_pop, hpop]
    rfl
  · exact (Memory.read_write s.mem _ s.ac b).trans (if_neg hb)

/-- Settles O39: RET pops the PC that CALL pushed, from wherever PC is then (`popWord_pushed`). -/
theorem callThenRetRestores : Obligations.CallThenRetRestores := by
  intro s a h h'
  refine ⟨_, pushedPopped s.pc s.pc s, exec_call_in a s h h', rfl, ?_, rfl⟩
  rw [exec_ret, popWord_pushed s.pc (a + 1) s h h']
  rfl

end Sys2Proof.Machine
end

section
/-! Memory and the request trace: what serving a list of requests does to memory (R55, R56, R66). -/

namespace Sys2Proof.Machine

open Sys2Proof.Safety

/-- R56: memory after one request is served. -/
def Memory.serve (m : Memory) (r : Request) : Memory :=
  if r.op = .write then Memory.write m r.addr.toNat r.wdata else m

/-- R66: memory after the requests are served, oldest first. -/
def Memory.served (m : Memory) (rs : List Request) : Memory := rs.foldl Memory.serve m

@[simp] theorem Memory.served_nil (m : Memory) : m.served [] = m := rfl

@[simp] theorem Memory.served_cons (m : Memory) (r : Request) (rs : List Request) :
    m.served (r :: rs) = (m.serve r).served rs := rfl

theorem Memory.served_append (m : Memory) (rs rs' : List Request) : m.served (rs ++ rs') = (m.served rs).served rs' :=
  List.foldl_append

/-- R66: reading served memory is the replay of the requests. -/
theorem Memory.read_served (m : Memory) (a : Nat) (rs : List Request) :
    Memory.read (m.served rs) a = replay a (Memory.read m a) rs := by
  induction rs generalizing m with
  | nil => rfl
  | cons r rs ih =>
    rw [Memory.served_cons, ih, replay, Memory.serve]
    by_cases hw : r.op = .write
    · simp [hw, eq_comm]
    · simp [hw]

theorem replay_append (a : Nat) (w : Word) (rs rs' : List Request) :
    replay a w (rs ++ rs') = replay a (replay a w rs) rs' := by
  induction rs generalizing w with
  | nil => rfl
  | cons r rs ih => exact ih _

/-- R66: a request that is no write to `a` leaves the word at `a`. -/
theorem replay_of_no_write {a : Nat} {rs : List Request} (h : ∀ r ∈ rs, r.op = .write → r.addr.toNat ≠ a) (w : Word) :
    replay a w rs = w := by
  induction rs with
  | nil => rfl
  | cons r rs ih =>
    obtain ⟨hr, hrs⟩ := List.forall_mem_cons.1 h
    rw [replay, if_neg fun hw => hr hw.1 hw.2, ih hrs]

/-- R50: requests of existing addresses keep memory in canonical form. -/
theorem Memory.served_wf {m : Memory} {rs : List Request} (hm : Memory.wf m) (h : ∀ r ∈ rs, AccessOk r) :
    Memory.wf (m.served rs) := by
  induction rs generalizing m with
  | nil => exact hm
  | cons r rs ih =>
    obtain ⟨⟨-, hlow, hhigh⟩, hrs⟩ := List.forall_mem_cons.1 h
    refine ih ?_ hrs
    have haddr := toInt_eq_toNat r.addr hlow
    unfold Memory.serve
    split
    · exact Memory.write_wf m _ _ hm (by simp only [Config.memWords]; omega)
    · exact hm

/-! ## The requests of the table of R109 -/

/-- R109: a read in range is sent, and what follows it is looked at. -/
theorem sentRequests_read {a : Int} (l : List Access) (h : 0 ≤ a) (h' : a ≤ 1999) :
    sentRequests (⟨a, none⟩ :: l) = .read a :: sentRequests l := by
  simp [sentRequests, h, h', Request.read, wrap]

/-- R109: so is a write in range. -/
theorem sentRequests_write {a : Int} (v : Word) (l : List Access) (h : 0 ≤ a) (h' : a ≤ 1999) :
    sentRequests (⟨a, some v⟩ :: l) = .write a v :: sentRequests l := by
  simp [sentRequests, h, h', Request.write, wrap]

/-- R109: an access out of range is not sent, and nothing after it is. -/
theorem sentRequests_out {c : Access} (l : List Access) (h : ¬(0 ≤ c.addr ∧ c.addr ≤ 1999)) : sentRequests (c :: l) = [] := by
  simp [sentRequests, h]

/-- R109: an access in range is sent before what follows it. -/
theorem sentRequests_cons_in {c : Access} (l : List Access) (h : 0 ≤ c.addr ∧ c.addr ≤ 1999) :
    sentRequests (c :: l) = sentRequests [c] ++ sentRequests l := by
  simp [sentRequests, h]

theorem read_accessOk {a : Int} (h : 0 ≤ a) (h' : a ≤ 1999) : AccessOk (.read a) := by
  have ha : (wrap a).toInt = a := toInt_wrap_of_range a (by omega) (by omega)
  exact ⟨.inl ⟨rfl, rfl⟩, by rw [Request.read, ha]; exact ⟨h, h'⟩⟩

theorem write_accessOk {a : Int} (v : Word) (h : 0 ≤ a) (h' : a ≤ 1999) : AccessOk (.write a v) := by
  have ha : (wrap a).toInt = a := toInt_wrap_of_range a (by omega) (by omega)
  exact ⟨.inr rfl, by rw [Request.write, ha]; exact ⟨h, h'⟩⟩

/-- R60: what is sent of a list of accesses has existing addresses. -/
theorem sentRequests_accessOk (l : List Access) : ∀ r ∈ sentRequests l, AccessOk r := by
  induction l with
  | nil => simp [sentRequests]
  | cons c l ih =>
    obtain ⟨a, w⟩ := c
    by_cases ha : 0 ≤ a ∧ a ≤ 1999
    · cases w with
      | none =>
        rw [sentRequests_read l ha.1 ha.2]
        exact List.forall_mem_cons.2 ⟨read_accessOk ha.1 ha.2, ih⟩
      | some v =>
        rw [sentRequests_write v l ha.1 ha.2]
        exact List.forall_mem_cons.2 ⟨write_accessOk v ha.1 ha.2, ih⟩
    · rw [sentRequests_out l ha]
      simp

end Sys2Proof.Machine
end


section
/-! What a piece of pseudocode does to memory, the traces and the status: it serves the requests it sends, appends the events it emits,
and leaves the status alone but for a raise (R63, R143, R201). -/

namespace Sys2Proof.Machine

open Sys2Proof.Safety

/-- From `s` to `t` the requests `rs` were sent and served, the events `es` emitted, and the status was left alone. -/
structure Worked (rs : List Request) (es : List Event) (s t : State) : Prop where
  requests : t.requests = s.requests ++ rs
  mem : t.mem = s.mem.served rs
  emissions : t.emissions = s.emissions ++ es
  run : t.run = s.run
  fault : t.fault = s.fault
  exitStatus : t.exitStatus = s.exitStatus
  engine : t.engine = s.engine

/-- Nothing sent, nothing emitted: the two states may differ in registers, the clock and the draw count. -/
abbrev Quiet (s t : State) : Prop := Worked [] [] s t

theorem quiet_of_eq {s t : State} (hreq : t.requests = s.requests) (hmem : t.mem = s.mem) (hem : t.emissions = s.emissions)
    (hrun : t.run = s.run) (hfault : t.fault = s.fault) (hexit : t.exitStatus = s.exitStatus) (heng : t.engine = s.engine) :
    Quiet s t :=
  ⟨by rw [hreq, List.append_nil], hmem, by rw [hem, List.append_nil], hrun, hfault, hexit, heng⟩

theorem Quiet.refl (s : State) : Quiet s s := quiet_of_eq rfl rfl rfl rfl rfl rfl rfl

theorem Worked.trans {rs rs' : List Request} {es es' : List Event} {s t u : State} (h : Worked rs es s t)
    (h' : Worked rs' es' t u) : Worked (rs ++ rs') (es ++ es') s u where
  requests := by rw [h'.requests, h.requests, List.append_assoc]
  mem := by rw [h'.mem, h.mem, Memory.served_append]
  emissions := by rw [h'.emissions, h.emissions, List.append_assoc]
  run := h'.run.trans h.run
  fault := h'.fault.trans h.fault
  exitStatus := h'.exitStatus.trans h.exitStatus
  engine := h'.engine.trans h.engine

/-- A quiet change after the work adds nothing to it. -/
theorem Worked.then_quiet {rs : List Request} {es : List Event} {s t u : State} (h : Worked rs es s t) (h' : Quiet t u) :
    Worked rs es s u := by
  simpa using h.trans h'

/-- Nor does a quiet change before it. -/
theorem Quiet.then_worked {rs : List Request} {es : List Event} {s t u : State} (h : Quiet s t) (h' : Worked rs es t u) :
    Worked rs es s u := by
  simpa using h.trans h'

/-- A piece of pseudocode started in `s` does this work, and then is done or raises a fatal fault (R201). -/
def Ran.Works {α : Type} (r : Ran α) (rs : List Request) (es : List Event) (s : State) : Prop :=
  match r with
  | .done _ t => Worked rs es s t
  | .raised t => ∃ c n u, c ≠ .none ∧ t = raise c n u ∧ Worked rs es s u

section
variable {α β : Type} {r : Ran α} {rs : List Request} {es : List Event} {s t : State}

/-- A quiet statement after the work adds nothing to it. -/
theorem Ran.Works.andThen_quiet {k : α → State → Ran β} (h : r.Works rs es s)
    (hk : ∀ v t, ∃ w u, k v t = .done w u ∧ Quiet t u) : (r.andThen k).Works rs es s := by
  cases r with
  | raised t => exact h
  | done v t =>
    obtain ⟨w, u, hu, hq⟩ := hk v t
    rw [Ran.andThen_done, hu]
    exact Worked.then_quiet h hq

/-- Pseudocode that starts after work already done. -/
theorem Ran.Works.of_start {rs' : List Request} {es' : List Event} (hr : r.Works rs es t) (h : Worked rs' es' s t) :
    r.Works (rs' ++ rs) (es' ++ es) s := by
  cases r with
  | done v u => exact h.trans hr
  | raised u =>
    obtain ⟨c, n, w, hc, rfl, hw⟩ := hr
    exact ⟨c, n, w, hc, rfl, h.trans hw⟩

/-- Pseudocode that starts after a quiet change. -/
theorem Ran.Works.of_quiet_start (hr : r.Works rs es t) (h : Quiet s t) : r.Works rs es s := hr.of_start h

/-- The statements after an access that was done ask for the accesses after it. -/
theorem Ran.Works.andThen_of_done {c : Access} {l : List Access} {v : α} {k : α → State → Ran β}
    (hr : r.Works (sentRequests [c]) [] s) (hdone : r = .done v t) (hc : 0 ≤ c.addr ∧ c.addr ≤ 1999)
    (hk : (k v t).Works (sentRequests l) [] t) : (r.andThen k).Works (sentRequests (c :: l)) [] s := by
  rw [hdone] at hr
  rw [hdone, Ran.andThen_done, sentRequests_cons_in l hc]
  exact hk.of_start hr

/-- After an access out of range nothing more is asked for. -/
theorem Ran.Works.andThen_of_out {c : Access} {l : List Access} {k : α → State → Ran β}
    (hr : r.Works (sentRequests [c]) [] s) (hraised : r = .raised t) (hc : ¬(0 ≤ c.addr ∧ c.addr ≤ 1999)) :
    (r.andThen k).Works (sentRequests (c :: l)) [] s := by
  rw [hraised] at hr ⊢
  rw [sentRequests_out [] hc] at hr
  rw [sentRequests_out l hc]
  exact hr

theorem raised_works {c : Cause} (n : Int) (hc : c ≠ .none) (h : Worked rs es s t) :
    (Ran.raised (raise c n t) : Ran α).Works rs es s := ⟨c, n, t, hc, rfl, h⟩

end

/-! ## The shared operations -/

theorem memRead_works (a : Int) (s : State) : (memRead a s).Works (sentRequests [⟨a, none⟩]) [] s := by
  by_cases ha : 0 ≤ a ∧ a ≤ 1999
  · rw [memRead_in s ha.1 ha.2, sentRequests_read [] ha.1 ha.2]
    exact ⟨rfl, rfl, (List.append_nil _).symm, rfl, rfl, rfl, rfl⟩
  · rw [memRead_out s ha, sentRequests_out [] ha]
    exact raised_works a (by decide) (Quiet.refl s)

/-- R62: the word stored is the one the WRITE carries. -/
theorem memWrite_works (a : Int) (v : Word) (s : State) : (memWrite a v s).Works (sentRequests [⟨a, some v⟩]) [] s := by
  by_cases ha : 0 ≤ a ∧ a ≤ 1999
  · have haddr : a.toNat = (wrap a).toNat := by
      have hint : (wrap a).toInt = a := toInt_wrap_of_range a (by omega) (by omega)
      rw [← toNat_toInt (wrap a) (by omega), hint]
    rw [memWrite_in v s ha.1 ha.2, sentRequests_write v [] ha.1 ha.2, haddr]
    exact ⟨rfl, rfl, (List.append_nil _).symm, rfl, rfl, rfl, rfl⟩
  · rw [memWrite_out v s ha, sentRequests_out [] ha]
    exact raised_works a (by decide) (Quiet.refl s)

theorem setSp_quiet (s : State) (v : Word) : Quiet s (s.setSp v) :=
  quiet_of_eq (setSp_requests s v) (setSp_mem s v) (setSp_emissions s v) (setSp_run s v) (setSp_fault s v)
    (setSp_exitStatus s v) (setSp_engine s v)

theorem pushWord_works (v : Word) (s : State) : (pushWord v s).Works (sentRequests [⟨s.sp.toInt - 1, some v⟩]) [] s := by
  unfold pushWord
  split
  · exact (memWrite_works _ v _).of_quiet_start (setSp_quiet s _)
  · rename_i hout
    rw [inRange_iff] at hout
    rw [sentRequests_out [] hout]
    exact raised_works _ (by decide) (Quiet.refl s)

theorem popWord_works (s : State) : (popWord s).Works (sentRequests [⟨s.sp.toInt, none⟩]) [] s :=
  (memRead_works _ s).andThen_quiet fun _ t => ⟨_, _, rfl, setSp_quiet t _⟩

/-- R123: both reads, or the first where it raises. -/
theorem readIndirect_works (a : Word) (s : State) :
    (readIndirect a s).Works
      (sentRequests [⟨a.toInt, none⟩, ⟨(Memory.read s.mem a.toInt.toNat).toInt, none⟩]) [] s := by
  have hfirst := memRead_works a.toInt s
  by_cases ha : 0 ≤ a.toInt ∧ a.toInt ≤ 1999
  · exact hfirst.andThen_of_done (memRead_in s ha.1 ha.2) ha (memRead_works _ _)
  · exact hfirst.andThen_of_out (memRead_out s ha) ha

/-- R224: both pushes, or those up to the one that raises. -/
theorem trapEntry_works (v : Word) (s : State) :
    (trapEntry v s).Works (sentRequests [⟨s.ssp.toInt - 1, some s.pc⟩, ⟨s.ssp.toInt - 2, some s.usp⟩]) [] s := by
  have hmode : Quiet s { s with mode := .system } := quiet_of_eq rfl rfl rfl rfl rfl rfl rfl
  have hfirst := pushWord_works s.pc { s with mode := .system }
  refine Ran.Works.of_quiet_start ?_ hmode
  by_cases hin : 1 ≤ s.ssp.toInt ∧ s.ssp.toInt ≤ 2000
  · have hone : 0 ≤ s.ssp.toInt - 1 ∧ s.ssp.toInt - 1 ≤ 1999 := by omega
    have hssp : (s.ssp - 1#32).toInt - 1 = s.ssp.toInt - 2 := by
      rw [toInt_sub_one s.ssp (by omega)]
      omega
    rw [← hssp]
    refine hfirst.andThen_of_done (pushWord_in s.pc { s with mode := .system } hin.1 hin.2) hone ?_
    exact (pushWord_works s.usp _).andThen_quiet fun _ t => ⟨_, _, rfl, quiet_of_eq rfl rfl rfl rfl rfl rfl rfl⟩
  · have hone : ¬(0 ≤ s.ssp.toInt - 1 ∧ s.ssp.toInt - 1 ≤ 1999) := by omega
    exact hfirst.andThen_of_out (pushWord_out s.pc { s with mode := .system } hin) hone

/-- R192: both pops, or those up to the one that raises. -/
theorem trapReturn_works (s : State) (hm : s.mode = .system) :
    (trapReturn s).Works (sentRequests [⟨s.ssp.toInt, none⟩, ⟨s.ssp.toInt + 1, none⟩]) [] s := by
  have hfirst := popWord_works s
  rw [sp_system s hm] at hfirst
  by_cases hin : 0 ≤ s.ssp.toInt ∧ s.ssp.toInt ≤ 1999
  · have hsecond := popWord_works (uspPopped s)
    rw [sp_system (uspPopped s) hm, toInt_ssp_uspPopped s hin.2] at hsecond
    refine hfirst.andThen_of_done (popWord_system_in s hm hin.1 hin.2) hin ?_
    refine Ran.Works.andThen_quiet (r := popWord (uspPopped s)) ?_ fun _ t =>
      ⟨_, _, rfl, quiet_of_eq rfl rfl rfl rfl rfl rfl rfl⟩
    exact hsecond.of_quiet_start (quiet_of_eq rfl rfl rfl rfl rfl rfl rfl)
  · exact hfirst.andThen_of_out (popWord_system_out s hm (by omega)) hin

end Sys2Proof.Machine
end

section
/-! What every instruction but END does: the requests and events of R109's table, then done or raised. -/

namespace Sys2Proof.Machine

open Sys2Proof.Safety

/-- R71: the access check emits at most the diagnostic. -/
theorem checkMemAccess_worked (a : Word) (s : State) : Worked [] (bodyEvents (.loadAddr a) s) s (checkMemAccess a s) := by
  rw [checkMemAccess_eq]
  exact ⟨(List.append_nil _).symm, rfl, rfl, rfl, rfl, rfl, rfl⟩

theorem emit_worked (k : EventKind) (v : Word) (s : State) : Worked [] [⟨k, v⟩] s (emit k v s) :=
  ⟨(List.append_nil _).symm, rfl, rfl, rfl, rfl, rfl, rfl⟩

theorem setAc_quiet (v : Word) (s : State) : ∃ w u, setAc v s = .done w u ∧ Quiet s u :=
  ⟨_, _, rfl, quiet_of_eq rfl rfl rfl rfl rfl rfl rfl⟩

/-- R126: past the stack bound nothing is read. -/
theorem readStack_works (s : State) : (readStack s).Works (sentRequests (bodyAccesses .loadSpx s)) [] s := by
  by_cases hb : 999 ≤ stackAddr s
  · have haccesses : bodyAccesses .loadSpx s = [] := if_neg (not_lt.2 hb)
    rw [readStack_bound s hb, haccesses]
    exact raised_works _ (by decide) (Quiet.refl s)
  · have haccesses : bodyAccesses .loadSpx s = [⟨stackAddr s, none⟩] := if_pos (not_le.1 hb)
    rw [readStack_below s (not_le.1 hb), haccesses]
    exact memRead_works _ s

/-- R141: one event on a legal port, none where the port is fatal. -/
theorem exec_put_works (p : Word) (s : State) :
    ∃ r : Ran Unit, exec (.put p) s = r.leaves ∧ r.Works [] (bodyEvents (.put p) s) s := by
  rw [exec_put, bodyEvents]
  by_cases h1 : p = 1
  · rw [if_pos h1, if_pos h1]
    exact ⟨.done () _, rfl, emit_worked _ _ s⟩
  · rw [if_neg h1, if_neg h1]
    by_cases h2 : p = 2
    · rw [if_pos h2, if_pos h2]
      exact ⟨.done () _, rfl, emit_worked _ _ s⟩
    · rw [if_neg h2, if_neg h2]
      exact ⟨.raised _, rfl, raised_works _ (by decide) (Quiet.refl s)⟩

/-- R190: the frame's two WRITEs in user mode, nothing in system mode. -/
theorem exec_int_works (s : State) :
    ∃ r : Ran Unit, exec .int s = r.leaves ∧ r.Works (sentRequests (bodyAccesses .int s)) [] s := by
  cases hm : s.mode with
  | user =>
    refine ⟨_, exec_int_user s hm, ?_⟩
    rw [bodyAccesses, if_pos hm]
    exact trapEntry_works 1500 s
  | system =>
    refine ⟨.raised _, exec_int_system s hm, ?_⟩
    rw [bodyAccesses, if_neg (by simp [hm])]
    exact raised_works _ (by decide) (Quiet.refl s)

/-- R192: the frame's two READs in system mode, nothing in user mode. -/
theorem exec_iret_works (s : State) :
    ∃ r : Ran Unit, exec .iret s = r.leaves ∧ r.Works (sentRequests (bodyAccesses .iret s)) [] s := by
  cases hm : s.mode with
  | user =>
    refine ⟨.raised _, exec_iret_user s hm, ?_⟩
    rw [bodyAccesses, if_neg (by simp [hm])]
    exact raised_works _ (by decide) (Quiet.refl s)
  | system =>
    refine ⟨_, exec_iret_system s hm, ?_⟩
    rw [bodyAccesses, if_pos hm]
    exact trapReturn_works s hm

/-- R109: the body of every instruction but END does the work of its row of the table. -/
theorem exec_works (i : Instr) (s : State) (hi : i ≠ .endRun) :
    ∃ r : Ran Unit, exec i s = r.leaves ∧ r.Works (sentRequests (bodyAccesses i s)) (bodyEvents i s) s := by
  cases i with
  | endRun => exact absurd rfl hi
  | loadValue | get | addX | addY | subX | subY | copyToX | copyFromX | copyToY | copyFromY | copyFromSp | jump | incX
    | decX =>
    exact ⟨.done () _, rfl, quiet_of_eq rfl rfl rfl rfl rfl rfl rfl⟩
  | copyToSp => exact ⟨.done () _, exec_copyToSp s, setSp_quiet s _⟩
  | jumpIfZero a =>
    rw [exec_jumpIfZero]
    split <;> exact ⟨.done () _, rfl, quiet_of_eq rfl rfl rfl rfl rfl rfl rfl⟩
  | jumpIfNonzero a =>
    rw [exec_jumpIfNonzero]
    split <;> exact ⟨.done () _, rfl, quiet_of_eq rfl rfl rfl rfl rfl rfl rfl⟩
  | put p => exact exec_put_works p s
  | int => exact exec_int_works s
  | iret => exact exec_iret_works s
  | loadAddr a =>
    refine ⟨_, exec_loadAddr a s, Ran.Works.andThen_quiet ?_ setAc_quiet⟩
    have hread := (memRead_works a.toInt (checkMemAccess a s)).of_start (checkMemAccess_worked a s)
    rwa [List.append_nil] at hread
  | loadindAddr a => exact ⟨_, rfl, (readIndirect_works a s).andThen_quiet setAc_quiet⟩
  | loadidxX a | loadidxY a => exact ⟨_, rfl, (memRead_works _ s).andThen_quiet setAc_quiet⟩
  | loadSpx => exact ⟨_, rfl, (readStack_works s).andThen_quiet setAc_quiet⟩
  | storeAddr a => exact ⟨_, exec_storeAddr a s, memWrite_works _ s.ac s⟩
  | push => exact ⟨_, exec_push s, pushWord_works s.ac s⟩
  | call a =>
    exact ⟨_, exec_call a s,
      (pushWord_works s.pc s).andThen_quiet fun _ _ => ⟨_, _, rfl, quiet_of_eq rfl rfl rfl rfl rfl rfl rfl⟩⟩
  | ret =>
    exact ⟨_, exec_ret s, (popWord_works s).andThen_quiet fun _ _ => ⟨_, _, rfl, quiet_of_eq rfl rfl rfl rfl rfl rfl rfl⟩⟩
  | pop =>
    exact ⟨_, exec_pop s, (popWord_works s).andThen_quiet fun _ _ => ⟨_, _, rfl, quiet_of_eq rfl rfl rfl rfl rfl rfl rfl⟩⟩

/-- R201: what work leaves: it was done, or a fatal fault was raised after it. -/
theorem Ran.Works.leaves {r : Ran Unit} {rs : List Request} {es : List Event} {s t : State} (h : r.Works rs es s)
    (ht : r.leaves = .next t) :
    Worked rs es s t ∨ ∃ c n u, c ≠ .none ∧ t = raise c n u ∧ Worked rs es s u := by
  cases r with
  | done v u => cases ht; exact .inl h
  | raised u => cases ht; exact .inr h

/-- R109, R201: the state an instruction other than END leaves. -/
theorem exec_next {i : Instr} {s t : State} (hi : i ≠ .endRun) (h : exec i s = .next t) :
    Worked (sentRequests (bodyAccesses i s)) (bodyEvents i s) s t ∨
      ∃ c n u, c ≠ .none ∧ t = raise c n u ∧ Worked (sentRequests (bodyAccesses i s)) (bodyEvents i s) s u := by
  obtain ⟨r, hr, hw⟩ := exec_works i s hi
  exact hw.leaves (hr ▸ h)

/-- R202: the instructions that never fault leave the status, END apart. -/
theorem exec_neverFaults {i : Instr} {s t : State} (hi : i ≠ .endRun) (hn : neverFaults i = true)
    (h : exec i s = .next t) : t.fault = s.fault ∧ t.run = s.run ∧ t.exitStatus = s.exitStatus := by
  cases i with
  | endRun => exact absurd rfl hi
  | loadAddr | loadindAddr | loadidxX | loadidxY | loadSpx | storeAddr | put | call | ret | push | pop | int | iret =>
    simp [neverFaults] at hn
  | loadValue | get | addX | addY | subX | subY | copyToX | copyFromX | copyToY | copyFromY | copyFromSp | jump | incX
    | decX =>
    cases h
    exact ⟨rfl, rfl, rfl⟩
  | copyToSp =>
    cases h
    exact ⟨setSp_fault s _, setSp_run s _, setSp_exitStatus s _⟩
  | jumpIfZero a =>
    rw [exec_jumpIfZero] at h
    split at h <;> cases h <;> exact ⟨rfl, rfl, rfl⟩
  | jumpIfNonzero a =>
    rw [exec_jumpIfNonzero] at h
    split at h <;> cases h <;> exact ⟨rfl, rfl, rfl⟩

/-! ## The statements that follow -/

/-- R194: what END sends. -/
theorem halt_requests (s : State) : (halt s).requests = s.requests ++ [.terminate] := awaitExited_requests _

theorem bodyRequests_of_ne {i : Instr} (s : State) (hi : i ≠ .endRun) :
    bodyRequests i s = sentRequests (bodyAccesses i s) := by
  rw [bodyRequests, if_neg hi, List.append_nil]

/-- Settles O49: END sends its TERMINATE; any other body sends the requests of its row (`exec_next`), which a fault leaves sent. -/
theorem bodyRequestTrace : Obligations.BodyRequestTrace := by
  intro i s t h
  by_cases hi : i = .endRun
  · subst hi
    cases h
    exact halt_requests s
  · rw [bodyRequests_of_ne s hi]
    obtain hw | ⟨c, n, u, -, rfl, hw⟩ := exec_next hi h
    · exact hw.requests
    · exact hw.requests

/-- Settles O50: END emits nothing; any other body emits the events of its row (`exec_next`), and a fault leaves them emitted. -/
theorem bodyEmissions : Obligations.BodyEmissions := by
  intro i s t h
  by_cases hi : i = .endRun
  · subst hi
    cases h
    exact (awaitExited_emissions _).trans (List.append_nil _).symm
  · obtain hw | ⟨c, n, u, -, rfl, hw⟩ := exec_next hi h
    · exact hw.emissions
    · exact hw.emissions

/-- R66 over one body: memory after an instruction is what serving its row's requests gives. -/
theorem exec_mem {i : Instr} {s t : State} (hi : i ≠ .endRun) (h : exec i s = .next t) :
    t.mem = s.mem.served (sentRequests (bodyAccesses i s)) := by
  obtain hw | ⟨c, n, u, -, rfl, hw⟩ := exec_next hi h
  · exact hw.mem
  · exact hw.mem

/-- A WRITE sent of a list of accesses is one the list asks for, of an existing address. -/
theorem write_mem_sentRequests {l : List Access} {r : Request} (h : r ∈ sentRequests l) (hw : r.op = .write) :
    ∃ c ∈ l, c.store ≠ none ∧ (r.addr.toNat : Int) = c.addr := by
  obtain ⟨c, hc, rfl⟩ := List.mem_map.1 h
  have hl : c ∈ l := (List.takeWhile_sublist _).subset hc
  have hin : 0 ≤ c.addr ∧ c.addr ≤ 1999 := by simpa using List.mem_takeWhile_imp hc
  have hint : (wrap c.addr).toInt = c.addr := toInt_wrap_of_range c.addr (by omega) (by omega)
  have haddr : ((wrap c.addr).toNat : Int) = c.addr := by
    rw [← toInt_eq_toNat (wrap c.addr) (by omega), hint]
  cases hstore : c.store with
  | none => simp [hstore] at hw
  | some v => exact ⟨c, hl, by simp [hstore], by simpa [hstore, wrap] using haddr⟩

/-- R109: a body that asks for no store at `b` leaves the word at `b`. -/
theorem exec_read_of_no_store {i : Instr} {s t : State} {b : Nat} (hi : i ≠ .endRun) (h : exec i s = .next t)
    (hb : ∀ c ∈ bodyAccesses i s, c.store ≠ none → (b : Int) ≠ c.addr) :
    Memory.read t.mem b = Memory.read s.mem b := by
  rw [exec_mem hi h, Memory.read_served]
  refine replay_of_no_write (fun r hr hw heq => ?_) _
  obtain ⟨c, hc, hstore, haddr⟩ := write_mem_sentRequests hr hw
  exact hb c hc hstore (heq ▸ haddr)

/-- R109: only STORE_ADDR, CALL, PUSH and INT ask for a store. -/
theorem bodyAccesses_store_eq_none {i : Instr} (s : State) (hstore : ∀ a, i ≠ .storeAddr a) (hcall : ∀ a, i ≠ .call a)
    (hpush : i ≠ .push) (hint : i ≠ .int) : ∀ c ∈ bodyAccesses i s, c.store = none := by
  cases i with
  | storeAddr a => exact absurd rfl (hstore a)
  | call a => exact absurd rfl (hcall a)
  | push => exact absurd rfl hpush
  | int => exact absurd rfl hint
  | loadSpx | iret => rw [bodyAccesses]; split <;> simp
  | _ => simp [bodyAccesses]

/-- Settles O47: no row but those of the four stores asks for one. -/
theorem memoryFrameNoStore : Obligations.MemoryFrameNoStore := by
  intro i s t hstore hcall hpush hint h b
  by_cases hi : i = .endRun
  · subst hi
    cases h
    exact congrArg (Memory.read · b) (awaitExited_mem _)
  · exact exec_read_of_no_store hi h fun c hc hs =>
      absurd (bodyAccesses_store_eq_none s hstore hcall hpush hint c hc) hs

/-- Settles O48: each of the four asks for its stores alone. -/
theorem memoryFrameStore : Obligations.MemoryFrameStore := by
  intro s t b
  refine ⟨fun a h hb => ?_, fun a h hb => ?_, fun h hb => ?_, fun h hb hb' => ?_⟩
  · exact exec_read_of_no_store (by simp) h (by simpa [bodyAccesses, directAddr] using hb)
  · exact exec_read_of_no_store (by simp) h (by simpa [bodyAccesses] using hb)
  · exact exec_read_of_no_store (by simp) h (by simpa [bodyAccesses] using hb)
  · refine exec_read_of_no_store (by simp) h ?_
    rw [bodyAccesses]
    split
    · simp [hb, hb']
    · simp

end Sys2Proof.Machine
end

section
/-! What a step of a running unit does to memory, the traces and the status (R100, R105, R106). -/

namespace Sys2Proof.Machine

open Sys2Proof.Safety

/-! ## The parts of a cycle around the body -/

theorem tick_quiet (s : State) : Quiet s (tick s) := quiet_of_eq rfl rfl rfl rfl rfl rfl rfl

theorem reload_quiet (s : State) : Quiet s (reload s) := by
  unfold reload
  split
  · exact quiet_of_eq rfl rfl rfl rfl rfl rfl rfl
  · exact Quiet.refl s

@[simp] theorem reload_lapse (s : State) : (reload s).lapse = s.lapse := by unfold reload; split <;> rfl

/-- R106: a cycle that has left RUNNING does not reload. -/
theorem reload_of_not_running {s : State} (h : s.run ≠ .running) : reload s = s := by
  simp [reload, h]

/-- R102: the preemption check sends what a trap entry sends, or nothing. -/
theorem preempt_works (s : State) : ∃ rs, (∀ r ∈ rs, AccessOk r) ∧ (preempt s).Works rs [] s := by
  rw [preempt_eq]
  split
  · exact ⟨_, sentRequests_accessOk _, trapEntry_works _ s⟩
  · exact ⟨[], by simp, Quiet.refl s⟩

theorem read_worked (a : Int) (p : Word) (s : State) :
    Worked [.read a] [] s { s with pc := p, requests := s.requests ++ [.read a] } :=
  ⟨rfl, rfl, (List.append_nil _).symm, rfl, rfl, rfl, rfl⟩

/-- R104: a fetch that is done has sent one READ or two. -/
theorem fetchInstr_done_worked {s t : State} {i : Instr} (h : fetchInstr s = .done i t) :
    ∃ r rs, (∀ q ∈ r :: rs, AccessOk q) ∧ Worked (r :: rs) [] s t := by
  obtain ⟨h0, h1, r, -, ⟨-, -, rfl⟩ | ⟨-, h2, h3, -, rfl⟩⟩ := fetchInstr_done h
  · exact ⟨_, [], by simpa using read_accessOk h0 h1, read_worked _ _ s⟩
  · exact ⟨_, _, List.forall_mem_cons.2 ⟨read_accessOk h0 h1, by simpa using read_accessOk h2 h3⟩,
      rfl, rfl, (List.append_nil _).symm, rfl, rfl, rfl, rfl⟩

/-- R104, R204: a fetch that raised has sent one READ or none. -/
theorem fetchInstr_raised_worked {s t : State} (h : fetchInstr s = .raised t) :
    ∃ rs c n u, (∀ r ∈ rs, AccessOk r) ∧ c ≠ .none ∧ t = raise c n u ∧ Worked rs [] s u := by
  obtain ⟨-, rfl⟩ | ⟨h0, h1, c, n, hc, rfl⟩ := fetchInstr_raised h
  · exact ⟨[], _, _, s, by simp, by decide, rfl, Quiet.refl s⟩
  · exact ⟨_, c, n, _, by simpa using read_accessOk h0 h1, hc, rfl, read_worked _ _ s⟩

/-! ## The step -/

/-- R65: a Memory Engine that answered a READ or a WRITE of the cycle is serving. -/
theorem serving_of_sent {s t : State} {r : Request} {rs : List Request} (hb : blocked s t = false)
    (ht : t.requests = s.requests ++ rs) (hr : r ∈ rs) (hop : r.op ≠ .terminate) : s.engine = .serving := by
  by_contra hne
  have hnone : s.firstUnanswered = some 0 := by
    cases he : s.engine with
    | serving => exact absurd he hne
    | populating | exited => simp [State.firstUnanswered, he]
  obtain ⟨j, hj⟩ := List.mem_iff_getElem?.1 hr
  have hsent : t.requests[s.requests.length + j]? = some r := by
    rw [ht, List.getElem?_append_right (Nat.le_add_right _ j), Nat.add_sub_cancel_left, hj]
  have hstuck := (blocked_iff hnone).2 ⟨_, r, Nat.zero_le _, Nat.le_add_right _ j, hsent, hop⟩
  rw [hb] at hstuck
  cases hstuck

/-- R194, R65: the halt ends the run, or leaves it in HALTING. -/
theorem halt_cases (s : State) :
    (s.lapse ≠ .neverExits ∧ halt s = { s with
      run := .exited, exitStatus := some .success, engine := .exited, requests := s.requests ++ [.terminate] }) ∨
    (s.lapse = .neverExits ∧ halt s = { s with run := .halting, requests := s.requests ++ [.terminate] }) := by
  by_cases hl : s.lapse = .neverExits
  · exact .inr ⟨hl, halt_stays s (by rw [hl]; rfl)⟩
  · exact .inl ⟨hl, halt_exits s ((Lapse.exits_iff _).2 hl)⟩

theorem halt_run_ne_running (s : State) : (halt s).run ≠ .running := by
  obtain ⟨-, h⟩ | ⟨-, h⟩ := halt_cases s <;> simp [h]

/-- R106: END is the last of its cycle. -/
@[simp] theorem reload_halt (s : State) : reload (halt s) = halt s := reload_of_not_running (halt_run_ne_running s)

theorem op_ne_terminate_of_accessOk {r : Request} (h : AccessOk r) : r.op ≠ .terminate := by
  obtain ⟨⟨hop, -⟩ | hop, -⟩ := h <;> simp [hop]

/-- What a cycle that answers has done: READs and WRITEs of existing addresses and some events, and then it goes on, or has raised a fatal
fault, or has halted, a Memory Engine that serves answering it. -/
theorem step_running_worked {s t : State} (hr : s.run = .running) (h : step s = .next t) :
    ∃ rs es u, (∀ r ∈ rs, AccessOk r) ∧ Worked rs es s u ∧
      (t = u ∨ (∃ c n, c ≠ .none ∧ t = raise c n u) ∨ (t = halt u ∧ s.engine = .serving)) := by
  obtain ⟨hb, hstep⟩ := step_running hr h
  obtain ⟨rs, hrs, hp⟩ := preempt_works (tick s)
  obtain e | ⟨u, e, hu⟩ := hstep
  · rw [e] at hp
    obtain ⟨c, n, v, hc, rfl, hv⟩ := hp
    exact ⟨rs, [], v, hrs, (tick_quiet s).then_worked hv, .inr (.inl ⟨c, n, hc, rfl⟩)⟩
  · rw [e] at hp
    have hsu : Worked rs [] s u := (tick_quiet s).then_worked hp
    obtain e' | ⟨i, v, w, e', ew, rfl⟩ := hu
    · obtain ⟨rs', c, n, v, hrs', hc, rfl, hv⟩ := fetchInstr_raised_worked e'
      exact ⟨_, _, v, List.forall_mem_append.2 ⟨hrs, hrs'⟩, hsu.trans hv, .inr (.inl ⟨c, n, hc, rfl⟩)⟩
    · obtain ⟨r, rs', hrs', hv⟩ := fetchInstr_done_worked e'
      have hsv := hsu.trans hv
      have hfetched := List.forall_mem_append.2 ⟨hrs, hrs'⟩
      by_cases hi : i = .endRun
      · subst hi
        cases ew
        rw [reload_halt] at hb ⊢
        have hsent : (halt v).requests = s.requests ++ (rs ++ r :: rs' ++ [.terminate]) := by
          rw [halt_requests, hsv.requests, List.append_assoc]
        have hserving := serving_of_sent hb hsent (r := r) (by simp) (op_ne_terminate_of_accessOk (hfetched r (by simp)))
        exact ⟨_, _, v, hfetched, hsv, .inr (.inr ⟨rfl, hserving⟩)⟩
      · have hbody := sentRequests_accessOk (bodyAccesses i v)
        have hall := List.forall_mem_append.2 ⟨hfetched, hbody⟩
        obtain hw | ⟨c, n, x, hc, rfl, hw⟩ := exec_next hi ew
        · exact ⟨_, _, _, hall, (hsv.trans hw).then_quiet (reload_quiet w), .inl rfl⟩
        · exact ⟨_, _, x, hall, hsv.trans hw, .inr (.inl ⟨c, n, hc, reload_of_not_running (by simp)⟩)⟩

/-! ## The invariants of memory and the traces -/

@[simp] theorem halt_mem (s : State) : (halt s).mem = s.mem := awaitExited_mem _

@[simp] theorem halt_emissions (s : State) : (halt s).emissions = s.emissions := awaitExited_emissions _

/-- What every step that answers does to memory and the traces: requests of existing addresses are sent and served, one TERMINATE may
follow, and events are emitted. -/
theorem step_worked {s t : State} (h : step s = .next t) :
    ∃ rs es, (∀ r ∈ rs, AccessOk r) ∧ t.mem = s.mem.served rs ∧ t.emissions = s.emissions ++ es ∧
      (t.requests = s.requests ++ rs ∨ t.requests = s.requests ++ rs ++ [.terminate]) := by
  obtain hr | hr | hr := step_run h
  · obtain ⟨-, -, rfl⟩ | ⟨-, -, rfl⟩ := step_waitReady hr h <;> exact ⟨[], [], by simp⟩
  · obtain ⟨rs, es, u, hrs, hu, rfl | ⟨c, n, -, rfl⟩ | ⟨rfl, -⟩⟩ := step_running_worked hr h
    · exact ⟨rs, es, hrs, hu.mem, hu.emissions, .inl hu.requests⟩
    · exact ⟨rs, es, hrs, hu.mem, hu.emissions, .inl hu.requests⟩
    · exact ⟨rs, es, hrs, by rw [halt_mem, hu.mem], by rw [halt_emissions, hu.emissions],
        .inr (by rw [halt_requests, hu.requests])⟩
  · obtain ⟨-, rfl⟩ := step_halting hr h
    exact ⟨[], [], by simp⟩

/-- Settles O52: requests of existing addresses keep the form (`Memory.served_wf`). -/
theorem memoryFormKept : Obligations.MemoryFormKept := by
  intro s t hs h
  obtain ⟨rs, es, hrs, hmem, -, -⟩ := step_worked h
  rw [hmem]
  exact Memory.served_wf hs hrs

/-- Settles O56: memory is the requests of the step served, and reading it is their replay (`Memory.read_served`), which continues the
replay of those before; TERMINATE writes nothing. -/
theorem memoryIsTraceReplay : Obligations.MemoryIsTraceReplay := by
  intro image s t hs h a ha
  obtain ⟨rs, es, -, hmem, -, hreq | hreq⟩ := step_worked h
  · rw [hmem, hreq, Memory.read_served, hs a ha, replay_append]
  · rw [hmem, hreq, Memory.read_served, hs a ha, replay_append, replay_append]
    rfl

/-- Settles O57: what a step does to either trace is to append (`step_worked`). -/
theorem tracesOnlyGrow : Obligations.TracesOnlyGrow := by
  intro s t h
  obtain ⟨rs, es, -, -, hem, hreq | hreq⟩ := step_worked h
  · exact ⟨⟨rs, hreq⟩, es, hem⟩
  · exact ⟨⟨rs ++ [.terminate], by rw [hreq, List.append_assoc]⟩, es, hem⟩

/-- Settles O55: a running unit sends requests of existing addresses, and TERMINATE as it halts; the waits send nothing. -/
theorem requestTraceKept : Obligations.RequestTraceKept := by
  intro s t hs h
  obtain hr | hr | hr := step_run h
  · have hnone : s.requests = [] := by simpa [TraceOk, hr] using hs
    obtain ⟨-, -, rfl⟩ | ⟨-, -, rfl⟩ := step_waitReady hr h <;> simp [TraceOk, hr, hnone]
  · have hold : ∀ r ∈ s.requests, AccessOk r := by simpa only [TraceOk, hr] using hs
    obtain ⟨rs, es, u, hrs, hu, ht⟩ := step_running_worked hr h
    have hall : ∀ r ∈ u.requests, AccessOk r := by
      rw [hu.requests]
      exact List.forall_mem_append.2 ⟨hold, hrs⟩
    obtain rfl | ⟨c, n, -, rfl⟩ | ⟨rfl, -⟩ := ht
    · simpa only [TraceOk, hu.run, hr] using hall
    · exact hall
    · obtain ⟨-, e⟩ | ⟨-, e⟩ := halt_cases u <;> rw [e] <;> exact ⟨u.requests, rfl, hall⟩
  · obtain ⟨-, rfl⟩ := step_halting hr h
    simpa only [TraceOk, hr] using hs

/-! ## The status -/

/-- R65: nothing in a step writes the lapse. -/
theorem step_lapse {s t : State} (h : step s = .next t) : t.lapse = s.lapse := by
  obtain hr | hr | hr := step_run h
  · obtain ⟨-, -, rfl⟩ | ⟨-, -, rfl⟩ := step_waitReady hr h <;> rfl
  · obtain ⟨hk, -⟩ | ⟨w, hk, rfl⟩ := step_running_clock hr h
    · exact hk.lapse
    · rw [reload_lapse]
      exact hk.lapse
  · obtain ⟨-, rfl⟩ := step_halting hr h
    rfl

/-- Settles O54: the start moves the Memory Engine on, then RUN; a cycle leaves the status, or raises with a cause, or ends the run; the
end of HALTING is the end of the run. -/
theorem statusKept : Obligations.StatusKept := by
  intro s t hs h
  refine ⟨?_, step_lapse h⟩
  obtain hr | hr | hr := step_run h
  · obtain ⟨hexit, hfault, -⟩ : s.exitStatus = none ∧ s.fault = ⟨.none, 0⟩ ∧ s.engine ≠ .exited := by
      simpa only [StatusOk, hr] using hs
    obtain ⟨-, -, rfl⟩ | ⟨heng, -, rfl⟩ := step_waitReady hr h
    · simp [StatusOk, hr, hexit, hfault]
    · exact ⟨hexit, hfault, heng⟩
  · obtain ⟨hexit, hfault, heng⟩ : s.exitStatus = none ∧ s.fault = ⟨.none, 0⟩ ∧ s.engine = .serving := by
      simpa only [StatusOk, hr] using hs
    obtain ⟨rs, es, u, -, hu, rfl | ⟨c, n, hc, rfl⟩ | ⟨rfl, -⟩⟩ := step_running_worked hr h
    · simp only [StatusOk, hu.run, hr]
      exact ⟨hu.exitStatus.trans hexit, hu.fault.trans hfault, hu.engine.trans heng⟩
    · exact ⟨rfl, hc⟩
    · obtain ⟨-, e⟩ | ⟨-, e⟩ := halt_cases u <;> rw [e]
      · exact ⟨rfl, hu.fault.trans hfault, rfl⟩
      · exact ⟨hu.exitStatus.trans hexit, hu.fault.trans hfault, hu.engine.trans heng⟩
  · obtain ⟨-, hfault, -⟩ : s.exitStatus = none ∧ s.fault = ⟨.none, 0⟩ ∧ s.engine = .serving := by
      simpa only [StatusOk, hr] using hs
    obtain ⟨-, rfl⟩ := step_halting hr h
    exact ⟨rfl, hfault, rfl⟩

/-- Settles O7: the waits lead where `step_waitReady` and `step_halting` say; a cycle stays in RUNNING, raises, or halts with a Memory
Engine that serves, which its lapse lets exit or not. -/
theorem runTransitions : Obligations.RunTransitions := by
  intro s t h
  obtain hr | hr | hr := step_run h
  · refine .inl ⟨hr, ?_⟩
    obtain ⟨-, -, rfl⟩ | ⟨-, -, rfl⟩ := step_waitReady hr h
    · exact .inl hr
    · exact .inr rfl
  · refine .inr (.inl ⟨hr, ?_⟩)
    have hlapse := step_lapse h
    obtain ⟨rs, es, u, -, hu, rfl | ⟨c, n, -, rfl⟩ | ⟨rfl, heng⟩⟩ := step_running_worked hr h
    · exact .inl (hu.run.trans hr)
    · exact .inr (.inl rfl)
    · obtain ⟨hl, e⟩ | ⟨hl, e⟩ := halt_cases u <;> rw [e] at hlapse ⊢
      · exact .inr (.inr (.inl ⟨rfl, heng, fun hs => hl (hlapse.trans hs)⟩))
      · exact .inr (.inr (.inr ⟨rfl, heng, hlapse.symm.trans hl⟩))
  · obtain ⟨hexits, rfl⟩ := step_halting hr h
    exact .inr (.inr ⟨hr, rfl, (Lapse.exits_iff _).1 hexits⟩)

end Sys2Proof.Machine
end

section
/-! TIMER over steps and over runs (R31, R108). -/

namespace Sys2Proof.Machine

open Sys2Proof.Safety

/-- R31, R32: no step leads back to WAIT_READY but from it. -/
theorem step_running_run {s t : State} (hr : s.run = .running) (h : step s = .next t) : t.run ≠ .waitReady := by
  obtain ⟨rs, es, u, -, hu, rfl | ⟨c, n, -, rfl⟩ | ⟨rfl, -⟩⟩ := step_running_worked hr h
  · simp [hu.run, hr]
  · simp
  · obtain ⟨-, e⟩ | ⟨-, e⟩ := halt_cases u <;> simp [e]

/-- R101, R106: TIMER after a cycle of a running unit, as an integer: at INTERVAL after the reload, one less otherwise. -/
theorem step_running_timer {s t : State} (hr : s.run = .running) (h : step s = .next t) (hpos : 1 ≤ s.timer.toInt) :
    t.timer.toInt = if t.run = .running ∧ s.timer.toInt = 1 then s.interval.toInt else s.timer.toInt - 1 := by
  have hone : s.timer.toInt = 1 ↔ s.timer = 1 := BitVec.toInt_inj (y := (1 : Word))
  simp only [(timerOverACycle s t hr h).1, hone]
  split
  · rfl
  · exact toInt_sub_one s.timer (by omega)

/-- Settles O53: the waits leave TIMER; a cycle counts it down, and where it is 1 in a unit that goes on sets it to INTERVAL. -/
theorem timerRangeKept : Obligations.TimerRangeKept := by
  intro s t hs h
  obtain hr | hr | hr := step_run h
  · have htimer : s.timer = s.interval := by simpa only [TimerOk, hr] using hs
    obtain ⟨-, -, rfl⟩ | ⟨-, hlegal, rfl⟩ := step_waitReady hr h
    · exact ⟨by simpa only [TimerOk, hr] using htimer, rfl⟩
    · exact ⟨by simpa only [TimerOk, htimer, le_refl, and_true] using hlegal, rfl⟩
  · obtain ⟨hlow, hhigh⟩ : 1 ≤ s.timer.toInt ∧ s.timer.toInt ≤ s.interval.toInt := by simpa only [TimerOk, hr] using hs
    have htimer := step_running_timer hr h hlow
    have hinterval := (timerOverACycle s t hr h).2
    refine ⟨?_, hinterval⟩
    cases ht : t.run with
    | waitReady => exact absurd ht (step_running_run hr h)
    | running =>
      simp only [ht, true_and] at htimer
      simp only [TimerOk, ht, hinterval]
      split at htimer <;> omega
    | halting | exited | faulted =>
      simp only [ht, reduceCtorEq, false_and, if_false] at htimer
      simp only [TimerOk, ht, hinterval]
      omega
  · have htimer : 0 ≤ s.timer.toInt ∧ s.timer.toInt ≤ s.interval.toInt := by simpa only [TimerOk, hr] using hs
    obtain ⟨-, rfl⟩ := step_halting hr h
    exact ⟨htimer, rfl⟩

/-! ## Runs -/

/-- A run of more than one step that answers is a step that answers and the run from there. -/
theorem run_succ {M : Host.Core} {k : Nat} {s t : M.State} (h : M.run (k + 1) s = .next t) :
    ∃ u, M.step s = .next u ∧ M.run k u = .next t := by
  rw [Host.Core.run] at h
  split at h
  case h_1 u hstep => exact ⟨u, hstep, h⟩
  case h_2 => cases h
  case h_3 => cases h

/-- R32: a unit that has left RUNNING does not come back to it. -/
theorem run_of_left_running {k : Nat} {s t : State} (hw : s.run ≠ .waitReady) (hr : s.run ≠ .running)
    (h : Host.Core.run Sys2Proof.core k s = .next t) : t.run ≠ .running := by
  induction k generalizing s with
  | zero => cases h; exact hr
  | succ k ih =>
    obtain ⟨u, hstep, hrest⟩ := run_succ h
    obtain hs | hs | hs := step_run hstep
    · exact absurd hs hw
    · exact absurd hs hr
    · obtain ⟨-, rfl⟩ := step_halting hs hstep
      exact ih (by simp) (by simp) hrest

/-- Counting one further: the remainder is one more, or 0 after the last one below the modulus. -/
theorem emod_add_one (j n : Int) (h : 1 ≤ n) : (j + 1) % n = if n - j % n = 1 then 0 else j % n + 1 := by
  have hlow := Int.emod_nonneg j (show n ≠ 0 by omega)
  have hhigh := Int.emod_lt_of_pos j (show 0 < n by omega)
  rw [← Int.emod_add_emod]
  split
  case isTrue hlast =>
    have hn : j % n + 1 = n := by omega
    rw [hn, Int.emod_self]
  case isFalse hinside => exact Int.emod_eq_of_lt (by omega) (by omega)

/-- R108, from any phase of the countdown: `j` cycles into it, `k` steps later it is `j + k` cycles in. -/
theorem run_timer {k : Nat} {j : Int} {s t : State} (hr : s.run = .running) (hlegal : 1 ≤ s.interval.toInt)
    (hphase : s.timer.toInt = s.interval.toInt - j % s.interval.toInt)
    (h : Host.Core.run Sys2Proof.core k s = .next t) (ht : t.run = .running) :
    t.timer.toInt = s.interval.toInt - (j + k) % s.interval.toInt := by
  induction k generalizing s j with
  | zero =>
    cases h
    simpa using hphase
  | succ k ih =>
    obtain ⟨u, hstep, hrest⟩ := run_succ h
    have hu : u.run = .running := by
      by_contra hne
      exact run_of_left_running (step_running_run hr hstep) hne hrest ht
    have hhigh := Int.emod_lt_of_pos j (show 0 < s.interval.toInt by omega)
    have htimer := step_running_timer hr hstep (by omega)
    have hinterval := (timerOverACycle s u hr hstep).2
    simp only [hu, true_and, hphase] at htimer
    have hnext : u.timer.toInt = u.interval.toInt - (j + 1) % u.interval.toInt := by
      rw [hinterval, htimer, emod_add_one j _ hlegal]
      split <;> omega
    have hfinal := ih hu (by rwa [hinterval]) hnext hrest
    rw [hfinal, hinterval, Nat.cast_succ]
    congr 2
    omega

/-- Settles O14: the case of `run_timer` that starts with TIMER at INTERVAL. -/
theorem timerPeriodOverRuns : Obligations.TimerPeriodOverRuns := by
  intro k s t hr hlegal htimer h ht
  have hphase : s.timer.toInt = s.interval.toInt - 0 % s.interval.toInt := by simp [htimer]
  simpa using run_timer hr hlegal hphase h ht

end Sys2Proof.Machine
end


section
/-! The start of a run (R39, R241, R242). -/

namespace Sys2Proof.Machine

open Sys2Proof.Safety

/-- R241, R65: a step while memory is being filled. -/
theorem step_populating {s : State} (hrun : s.run = .waitReady) (h : s.engine = .populating) :
    step s = if s.lapse = .neverReady then .fault .memReadyNeverComes else .next { s with engine := .serving } := by
  simp only [step, hrun, awaitReady, h]

/-- R242: a step once MEM_READY is raised, with a legal INTERVAL. -/
theorem step_ready {s : State} (hrun : s.run = .waitReady) (h : s.engine = .serving) (hlegal : 1 ≤ s.interval.toInt) :
    step s = .next { s with run := .running } := by
  simp only [step, hrun, awaitReady, h, start, if_neg (not_lt.2 hlegal)]

/-- Settles O6: a launch waits with the Memory Engine populating, which the lapse decides; once it serves, a legal INTERVAL starts. -/
theorem startHandshake : Obligations.StartHandshake := by
  intro interval image lapse hlegal s
  have hrun : s.run = .waitReady := rfl
  have hengine : s.engine = .populating := rfl
  have hlapse : s.lapse = lapse := rfl
  have hinterval : s.interval = interval := rfl
  clear_value s
  have hwait := step_populating hrun hengine
  subst hlapse
  refine ⟨fun hl => ⟨hwait.trans (if_neg hl), ?_⟩, fun hl => hwait.trans (if_pos hl)⟩
  exact step_ready (s := { s with engine := .serving }) hrun rfl (hinterval ▸ hlegal)

/-- Settles O58: memory is the image's (`Memory.ofImage_wf`, `read_launch_mem`), the traces are empty, and the rest is reset's. -/
theorem launchMeetsInvariants : Obligations.LaunchMeetsInvariants := by
  intro interval image _ s
  have hrun : s.run = .waitReady := rfl
  have hmem : s.mem = Memory.ofImage image := launch_mem interval image
  have hread : ∀ a < 2000, Memory.read s.mem a = image a := fun a ha => read_launch_mem interval image ha
  have htimer : s.timer = s.interval := rfl
  have hstatus : s.exitStatus = none ∧ s.fault = ⟨.none, 0⟩ ∧ s.engine = .populating := ⟨rfl, rfl, rfl⟩
  have hrequests : s.requests = [] := launch_requests interval image
  clear_value s
  refine ⟨hmem ▸ Memory.ofImage_wf image, ?_, ?_, ?_, ?_⟩
  · simpa only [TimerOk, hrun] using htimer
  · simp [StatusOk, hrun, hstatus]
  · simpa only [TraceOk, hrun] using hrequests
  · simpa only [hrequests, replay] using hread

end Sys2Proof.Machine
end

section
/-! Frames over all instructions: the registers, MODE and the draw count (R27, R38). -/

namespace Sys2Proof.Machine

open Sys2Proof.Safety

/-! ## What a body may write -/

/-- What a body may write beside memory, the traces and the status. -/
inductive Slot where
  | reg (r : Reg)
  | pc
  | mode
  | draws

/-- The two states hold the same in the slot. -/
def Slot.Same (k : Slot) (s t : State) : Prop :=
  match k with
  | .reg r => r.value t = r.value s
  | .pc => t.pc = s.pc
  | .mode => t.mode = s.mode
  | .draws => t.draws = s.draws

/-- R38, column "writes", with PC (the transfers, opcodes 20 to 24, 29 and 30), MODE (29 and 30) and the model's own draw count (8): the
slots an instruction that starts in mode `m` may write. -/
def writtenSlots (i : Instr) (m : Mode) : List Slot :=
  (writtenRegs i m).map .reg ++
    ((if i.opcodeWord ∈ [20, 21, 22, 23, 24, 29, 30] then [.pc] else []) ++
      ((if i.opcodeWord ∈ [29, 30] then [.mode] else []) ++ if i.opcodeWord = 8 then [.draws] else []))

/-- From `s` to `t` only slots of `ws` have changed. -/
def KeptBut (ws : List Slot) (s t : State) : Prop := ∀ k ∉ ws, k.Same s t

theorem Slot.Same.trans {k : Slot} {s t u : State} (h : k.Same s t) (h' : k.Same t u) : k.Same s u := by
  cases k <;> exact Eq.trans h' h

theorem KeptBut.trans {ws : List Slot} {s t u : State} (h : KeptBut ws s t) (h' : KeptBut ws t u) : KeptBut ws s u :=
  fun k hk => (h k hk).trans (h' k hk)

/-- A piece of pseudocode started in `s` writes slots of `ws` only, done or raised. -/
def Ran.KeepsBut {α : Type} (r : Ran α) (ws : List Slot) (s : State) : Prop :=
  match r with
  | .done _ t => KeptBut ws s t
  | .raised t => KeptBut ws s t

section
variable {α β : Type} {ws : List Slot} {s t : State}

theorem Ran.KeepsBut.andThen {r : Ran α} {k : α → State → Ran β} (h : r.KeepsBut ws s)
    (hk : ∀ v t, (k v t).KeepsBut ws t) : (r.andThen k).KeepsBut ws s := by
  cases r with
  | raised t => exact h
  | done v t =>
    have hkt := hk v t
    rw [Ran.andThen_done]
    cases hu : k v t with
    | done w u => rw [hu] at hkt; exact KeptBut.trans h hkt
    | raised u => rw [hu] at hkt; exact KeptBut.trans h hkt

theorem Ran.KeepsBut.done {v : α} (h : KeptBut ws s t) : (Ran.done v t).KeepsBut ws s := h

theorem Ran.KeepsBut.of_start {r : Ran α} (hr : r.KeepsBut ws t) (h : KeptBut ws s t) : r.KeepsBut ws s := by
  cases r with
  | done v u => exact h.trans hr
  | raised u => exact h.trans hr

theorem Ran.KeepsBut.leaves {r : Ran Unit} (h : r.KeepsBut ws s) (ht : r.leaves = .next t) : KeptBut ws s t := by
  cases r with
  | done v u => cases ht; exact h
  | raised u => cases ht; exact h

/-- Slot by slot: it may be written, or it holds what it held. -/
theorem keptBut_of (hac : .reg .ac ∈ ws ∨ t.ac = s.ac) (hx : .reg .x ∈ ws ∨ t.x = s.x) (hy : .reg .y ∈ ws ∨ t.y = s.y)
    (husp : .reg .usp ∈ ws ∨ t.usp = s.usp) (hssp : .reg .ssp ∈ ws ∨ t.ssp = s.ssp) (hpc : .pc ∈ ws ∨ t.pc = s.pc)
    (hmode : .mode ∈ ws ∨ t.mode = s.mode) (hdraws : .draws ∈ ws ∨ t.draws = s.draws) : KeptBut ws s t := by
  intro k hk
  cases k with
  | reg r => cases r with
    | ac => exact hac.resolve_left hk
    | x => exact hx.resolve_left hk
    | y => exact hy.resolve_left hk
    | usp => exact husp.resolve_left hk
    | ssp => exact hssp.resolve_left hk
  | pc => exact hpc.resolve_left hk
  | mode => exact hmode.resolve_left hk
  | draws => exact hdraws.resolve_left hk

/-- Memory, the traces, the status and the clock are no slots. -/
theorem keptBut_of_eq (hac : t.ac = s.ac) (hx : t.x = s.x) (hy : t.y = s.y) (husp : t.usp = s.usp) (hssp : t.ssp = s.ssp)
    (hpc : t.pc = s.pc) (hmode : t.mode = s.mode) (hdraws : t.draws = s.draws) : KeptBut ws s t :=
  keptBut_of (.inr hac) (.inr hx) (.inr hy) (.inr husp) (.inr hssp) (.inr hpc) (.inr hmode) (.inr hdraws)

end

/-! ## The shared operations -/

section
variable {ws : List Slot}

theorem raised_raise_keepsBut {α : Type} (c : Cause) (n : Int) (s : State) :
    (Ran.raised (raise c n s) : Ran α).KeepsBut ws s := keptBut_of_eq rfl rfl rfl rfl rfl rfl rfl rfl

theorem memRead_keepsBut (a : Int) (s : State) : (memRead a s).KeepsBut ws s := by
  unfold memRead
  split
  · exact keptBut_of_eq rfl rfl rfl rfl rfl rfl rfl rfl
  · exact raised_raise_keepsBut _ _ s

theorem memWrite_keepsBut (a : Int) (v : Word) (s : State) : (memWrite a v s).KeepsBut ws s := by
  unfold memWrite
  split
  · exact keptBut_of_eq rfl rfl rfl rfl rfl rfl rfl rfl
  · exact raised_raise_keepsBut _ _ s

theorem readStack_keepsBut (s : State) : (readStack s).KeepsBut ws s := by
  unfold readStack
  split
  · exact raised_raise_keepsBut _ _ s
  · exact memRead_keepsBut _ s

theorem checkMemAccess_keptBut (a : Word) (s : State) : KeptBut ws s (checkMemAccess a s) := by
  rw [checkMemAccess_eq]
  exact keptBut_of_eq rfl rfl rfl rfl rfl rfl rfl rfl

theorem ac_keptBut (v : Word) (s : State) (h : .reg .ac ∈ ws) : KeptBut ws s { s with ac := v } :=
  keptBut_of (.inl h) (.inr rfl) (.inr rfl) (.inr rfl) (.inr rfl) (.inr rfl) (.inr rfl) (.inr rfl)

theorem x_keptBut (v : Word) (s : State) (h : .reg .x ∈ ws) : KeptBut ws s { s with x := v } :=
  keptBut_of (.inr rfl) (.inl h) (.inr rfl) (.inr rfl) (.inr rfl) (.inr rfl) (.inr rfl) (.inr rfl)

theorem y_keptBut (v : Word) (s : State) (h : .reg .y ∈ ws) : KeptBut ws s { s with y := v } :=
  keptBut_of (.inr rfl) (.inr rfl) (.inl h) (.inr rfl) (.inr rfl) (.inr rfl) (.inr rfl) (.inr rfl)

theorem draws_keptBut (n : Nat) (s : State) (h : .draws ∈ ws) : KeptBut ws s { s with draws := n } :=
  keptBut_of (.inr rfl) (.inr rfl) (.inr rfl) (.inr rfl) (.inr rfl) (.inr rfl) (.inr rfl) (.inl h)

theorem pc_keptBut (v : Word) (s : State) (h : .pc ∈ ws) : KeptBut ws s { s with pc := v } :=
  keptBut_of (.inr rfl) (.inr rfl) (.inr rfl) (.inr rfl) (.inr rfl) (.inl h) (.inr rfl) (.inr rfl)

theorem setSp_keptBut (v : Word) (s : State) (h : .reg (activeReg s.mode) ∈ ws) : KeptBut ws s (s.setSp v) := by
  cases hm : s.mode with
  | user =>
    rw [setSp_user s v hm]
    rw [hm] at h
    exact keptBut_of (.inr rfl) (.inr rfl) (.inr rfl) (.inl h) (.inr rfl) (.inr rfl) (.inr rfl) (.inr rfl)
  | system =>
    rw [setSp_system s v hm]
    rw [hm] at h
    exact keptBut_of (.inr rfl) (.inr rfl) (.inr rfl) (.inr rfl) (.inl h) (.inr rfl) (.inr rfl) (.inr rfl)

theorem setAc_keepsBut (v : Word) (s : State) (h : .reg .ac ∈ ws) : (setAc v s).KeepsBut ws s := ac_keptBut v s h

theorem pushWord_keepsBut (v : Word) (s : State) (h : .reg (activeReg s.mode) ∈ ws) : (pushWord v s).KeepsBut ws s := by
  unfold pushWord
  split
  · exact (memWrite_keepsBut _ v _).of_start (setSp_keptBut _ s h)
  · exact raised_raise_keepsBut _ _ s

theorem popWord_keepsBut (s : State) (h : .reg (activeReg s.mode) ∈ ws) : (popWord s).KeepsBut ws s := by
  unfold popWord memRead
  split
  · refine KeptBut.trans ?_ (setSp_keptBut _ (send _ s) h)
    exact keptBut_of_eq rfl rfl rfl rfl rfl rfl rfl rfl
  · exact raised_raise_keepsBut _ _ s

end

/-- R224: a trap entry writes SSP, PC and MODE. -/
theorem trapEntry_keepsBut (v : Word) (s : State) : (trapEntry v s).KeepsBut [.reg .ssp, .pc, .mode] s := by
  obtain ⟨-, -, e⟩ | ⟨-, e⟩ | ⟨-, e⟩ := trapEntry_cases v s <;> rw [e] <;>
    exact keptBut_of (.inr rfl) (.inr rfl) (.inr rfl) (.inr rfl) (.inl (by simp)) (.inl (by simp)) (.inl (by simp))
      (.inr rfl)

/-- R192: a trap return writes USP too. -/
theorem trapReturn_keepsBut (s : State) (hm : s.mode = .system) :
    (trapReturn s).KeepsBut [.reg .usp, .reg .ssp, .pc, .mode] s := by
  by_cases hfirst : s.ssp.toInt < 0 ∨ 1999 < s.ssp.toInt
  · rw [trapReturn_first_pop_out s hm hfirst]
    exact keptBut_of_eq rfl rfl rfl rfl rfl rfl rfl rfl
  · by_cases hlast : s.ssp.toInt = 1999
    · rw [trapReturn_second_pop_out s hm hlast]
      exact keptBut_of (.inr rfl) (.inr rfl) (.inr rfl) (.inl (by simp)) (.inl (by simp)) (.inl (by simp)) (.inl (by simp))
        (.inr rfl)
    · rw [trapReturn_in s hm (by omega) (by omega)]
      exact keptBut_of (.inr rfl) (.inr rfl) (.inr rfl) (.inl (by simp)) (.inl (by simp)) (.inl (by simp)) (.inl (by simp))
        (.inr rfl)

/-! ## The instructions -/

/-- R38: an instruction writes the slots of its row. -/
theorem exec_keptBut {i : Instr} {s t : State} (h : exec i s = .next t) : KeptBut (writtenSlots i s.mode) s t := by
  cases i with
  | loadValue | addX | addY | subX | subY | copyFromX | copyFromY | copyFromSp =>
    cases h
    exact ac_keptBut _ s (by simp [writtenSlots, writtenRegs])
  | copyToX | incX | decX =>
    cases h
    exact x_keptBut _ s (by simp [writtenSlots, writtenRegs])
  | copyToY =>
    cases h
    exact y_keptBut _ s (by simp [writtenSlots, writtenRegs])
  | copyToSp =>
    cases h
    exact setSp_keptBut _ s (by simp [writtenSlots, writtenRegs])
  | get =>
    cases h
    exact (draws_keptBut _ s (by simp [writtenSlots, Instr.opcodeWord])).trans (ac_keptBut _ _ (by simp [writtenSlots, writtenRegs]))
  | jump =>
    cases h
    exact pc_keptBut _ s (by simp [writtenSlots, Instr.opcodeWord])
  | jumpIfZero a =>
    rw [exec_jumpIfZero] at h
    split at h <;> cases h
    · exact pc_keptBut a s (by simp [writtenSlots, Instr.opcodeWord])
    · exact keptBut_of_eq rfl rfl rfl rfl rfl rfl rfl rfl
  | jumpIfNonzero a =>
    rw [exec_jumpIfNonzero] at h
    split at h <;> cases h
    · exact keptBut_of_eq rfl rfl rfl rfl rfl rfl rfl rfl
    · exact pc_keptBut a s (by simp [writtenSlots, Instr.opcodeWord])
  | put p =>
    rw [exec_put] at h
    cases h
    split
    · exact keptBut_of_eq rfl rfl rfl rfl rfl rfl rfl rfl
    · split <;> exact keptBut_of_eq rfl rfl rfl rfl rfl rfl rfl rfl
  | endRun =>
    cases h
    obtain ⟨-, e⟩ | ⟨-, e⟩ := halt_cases s <;> rw [e] <;> exact keptBut_of_eq rfl rfl rfl rfl rfl rfl rfl rfl
  | loadAddr a =>
    have hread := (memRead_keepsBut a.toInt _).of_start
      (checkMemAccess_keptBut (ws := writtenSlots (.loadAddr a) s.mode) a s)
    exact (hread.andThen fun v t => setAc_keepsBut v t (by simp [writtenSlots, writtenRegs])).leaves h
  | loadindAddr a =>
    have hread := (memRead_keepsBut (ws := writtenSlots (.loadindAddr a) s.mode) a.toInt s).andThen fun p t => memRead_keepsBut p.toInt t
    exact (hread.andThen fun v t => setAc_keepsBut v t (by simp [writtenSlots, writtenRegs])).leaves h
  | loadidxX | loadidxY =>
    exact Ran.KeepsBut.leaves
      ((memRead_keepsBut _ s).andThen fun v t => setAc_keepsBut v t (by simp [writtenSlots, writtenRegs])) h
  | loadSpx =>
    exact Ran.KeepsBut.leaves
      ((readStack_keepsBut s).andThen fun v t => setAc_keepsBut v t (by simp [writtenSlots, writtenRegs])) h
  | storeAddr a => exact (memWrite_keepsBut a.toInt s.ac s).leaves h
  | call a =>
    have hpush := pushWord_keepsBut (ws := writtenSlots (.call a) s.mode) s.pc s (by simp [writtenSlots, writtenRegs])
    exact (hpush.andThen fun _ t => .done (pc_keptBut a t (by simp [writtenSlots, Instr.opcodeWord]))).leaves h
  | ret =>
    have hpop := popWord_keepsBut (ws := writtenSlots .ret s.mode) s (by simp [writtenSlots, writtenRegs])
    exact (hpop.andThen fun v t => .done (pc_keptBut v t (by simp [writtenSlots, Instr.opcodeWord]))).leaves h
  | push => exact (pushWord_keepsBut s.ac s (by simp [writtenSlots, writtenRegs])).leaves h
  | pop =>
    have hpop := popWord_keepsBut (ws := writtenSlots .pop s.mode) s (by simp [writtenSlots, writtenRegs])
    exact (hpop.andThen fun v t => .done (ac_keptBut v t (by simp [writtenSlots, writtenRegs]))).leaves h
  | int =>
    cases hm : s.mode with
    | user =>
      rw [exec_int_user s hm] at h
      exact (trapEntry_keepsBut 1500 s).leaves h
    | system =>
      rw [exec_int_system s hm] at h
      cases h
      exact keptBut_of_eq rfl rfl rfl rfl rfl rfl rfl rfl
  | iret =>
    cases hm : s.mode with
    | user =>
      rw [exec_iret_user s hm] at h
      cases h
      exact keptBut_of_eq rfl rfl rfl rfl rfl rfl rfl rfl
    | system =>
      rw [exec_iret_system s hm] at h
      exact (trapReturn_keepsBut s hm).leaves h

/-! ## The statements -/

/-- Settles O45: `exec_keptBut` at the register. -/
theorem registerFrame : Obligations.RegisterFrame := by
  intro i s t r h hr
  refine exec_keptBut h (.reg r) ?_
  simp only [writtenSlots, List.mem_append, List.mem_map, Slot.reg.injEq, exists_eq_right, hr, false_or]
  cases i <;> simp

/-- R27: MODE is written by INT and IRET. -/
theorem exec_mode {i : Instr} {s t : State} (hint : i ≠ .int) (hiret : i ≠ .iret) (h : exec i s = .next t) :
    t.mode = s.mode := by
  refine exec_keptBut h .mode ?_
  cases i <;> simp_all [writtenSlots, Instr.opcodeWord]

/-- R194, R201: only END changes the Memory Engine's status. -/
theorem exec_engine {i : Instr} {s t : State} (hi : i ≠ .endRun) (h : exec i s = .next t) : t.engine = s.engine := by
  obtain hw | ⟨c, n, u, -, rfl, hw⟩ := exec_next hi h
  · exact hw.engine
  · exact hw.engine

/-- R32, R33, R201: the status after an instruction other than END is as before, or that of a fatal fault. -/
theorem exec_status {i : Instr} {s t : State} (hi : i ≠ .endRun) (h : exec i s = .next t) :
    (t.run = s.run ∧ t.fault = s.fault ∧ t.exitStatus = s.exitStatus) ∨
      (t.run = .faulted ∧ t.fault.cause ≠ .none ∧ t.exitStatus = some .failure) := by
  obtain hw | ⟨c, n, u, hc, rfl, -⟩ := exec_next hi h
  · exact .inl ⟨hw.run, hw.fault, hw.exitStatus⟩
  · exact .inr ⟨rfl, hc, rfl⟩

/-- Settles O46: the clock is `exec_keepsClock`, MODE, PC and the draw count are `exec_keptBut`, the status is `exec_status` and, for the
instructions that never fault, `exec_neverFaults`; END writes no fault record. -/
theorem controlFrame : Obligations.ControlFrame := by
  intro i s t h
  obtain ⟨t', ht', hk⟩ := exec_keepsClock i s
  obtain rfl : t' = t := by simpa [ht'] using h
  refine ⟨hk.timer, hk.interval, hk.lapse, fun hint hiret => exec_mode hint hiret h, ?_, fun hget => ?_,
    fun hi => exec_engine hi h, fun hi => exec_status hi h, fun hn => ⟨?_, fun hi => (exec_neverFaults hi hn h).2⟩⟩
  · intro hjump hjz hjnz hcall hret hint hiret
    refine exec_keptBut h .pc ?_
    cases i <;> simp_all [writtenSlots, Instr.opcodeWord]
  · refine exec_keptBut h .draws ?_
    cases i <;> simp_all [writtenSlots, Instr.opcodeWord]
  · by_cases hi : i = .endRun
    · subst hi
      cases h
      exact awaitExited_fault _
    · exact (exec_neverFaults hi hn h).1

end Sys2Proof.Machine
end

section
/-! The cycle: the instruction fetched, executed and reloaded after, at PC or at the timer handler (R100 to R107). -/

namespace Sys2Proof.Machine

open Sys2Proof.Safety

/-! ## The fetch of an encoded instruction -/

/-- The instruction's words lie in memory from `a` on. -/
def WordsAt (i : Instr) (m : Memory) (a : Nat) : Prop :=
  ∀ k (h : k < (encode i).length), Memory.read m (a + k) = (encode i)[k]

/-- R104, R107: the state after the fetch of an instruction. -/
def fetched (i : Instr) (s : State) : State :=
  { s with
    pc := s.pc + BitVec.ofNat 32 (encode i).length
    requests := s.requests ++ (List.range (encode i).length).map fun k => ⟨.read, s.pc + BitVec.ofNat 32 k, 0⟩ }

/-- One word further on in memory, signed and unsigned. -/
theorem pc_add_one {w : Word} (h : 0 ≤ w.toInt) (h' : w.toInt ≤ 1999) :
    (w + 1).toInt = w.toInt + 1 ∧ (w + 1).toNat = w.toNat + 1 := by
  have hint : (w + 1).toInt = w.toInt + 1 := toInt_add_one w (by omega)
  have hnat := toInt_eq_toNat (w + 1) (by omega)
  have hnat' := toInt_eq_toNat w h
  exact ⟨hint, by omega⟩

/-- R104: the state after the fetch of one word. -/
def wordFetched (s : State) : State := { s with pc := s.pc + 1, requests := s.requests ++ [⟨.read, s.pc, 0⟩] }

/-- R104: a fetch in range, with its address as a word. -/
theorem fetchWord_word_in {s : State} (h : 0 ≤ s.pc.toInt) (h' : s.pc.toInt ≤ 1999) :
    fetchWord s = .done (Memory.read s.mem s.pc.toNat) (wordFetched s) := by
  rw [fetchWord_in s h h', Request.read_toInt]
  rfl

section
variable {s : State} {r : OpcodeRow}

/-- R107: a format N opcode at PC is the whole instruction. -/
theorem fetchInstr_format_n (h : 0 ≤ s.pc.toInt) (h' : s.pc.toInt ≤ 1999)
    (hr : lookupOpcode (Memory.read s.mem s.pc.toNat) = some r) (hf : r.format = .n) :
    fetchInstr s = .done (r.build 0) (wordFetched s) := by
  rw [fetchInstr, fetchWord_word_in h h', Ran.andThen_done]
  simp only [hr, hf]

/-- R107: a format A opcode at PC is followed by the fetch of its operand. -/
theorem fetchInstr_format_a (h : 0 ≤ s.pc.toInt) (h' : s.pc.toInt ≤ 1999)
    (hr : lookupOpcode (Memory.read s.mem s.pc.toNat) = some r) (hf : r.format = .a) :
    fetchInstr s = (fetchWord (wordFetched s)).andThen fun v u => .done (r.build v) u := by
  rw [fetchInstr, fetchWord_word_in h h', Ran.andThen_done]
  simp only [hr, hf]

end

/-- R105, R107: where the words at PC are an instruction's, the fetch gives that instruction. -/
theorem fetchInstr_encode {i : Instr} {s : State} (h : 0 ≤ s.pc.toInt) (hfit : s.pc.toInt + (encode i).length ≤ 2000)
    (hw : WordsAt i s.mem s.pc.toNat) : fetchInstr s = .done i (fetched i s) := by
  obtain ⟨r, hr, ⟨hf, ho, hb⟩ | ⟨hf, v, ho, hb⟩⟩ := encoding_row i
  · have henc : encode i = [i.opcodeWord] := by rw [encode, ho]; rfl
    rw [WordsAt, henc] at hw
    rw [henc, List.length_singleton] at hfit
    have hop : Memory.read s.mem s.pc.toNat = i.opcodeWord := hw 0 Nat.one_pos
    have hstate : wordFetched s = fetched i s := by simp [fetched, wordFetched, henc]
    rw [fetchInstr_format_n h (by omega) (hop ▸ hr) hf, hb, hstate]
  · have henc : encode i = [i.opcodeWord, v] := by rw [encode, ho]; rfl
    rw [WordsAt, henc] at hw
    rw [henc, List.length_cons, List.length_singleton] at hfit
    obtain ⟨hint, hnat⟩ := pc_add_one h (by omega)
    have hop : Memory.read s.mem s.pc.toNat = i.opcodeWord := hw 0 Nat.two_pos
    have hoperand : Memory.read (wordFetched s).mem (wordFetched s).pc.toNat = v :=
      (congrArg _ hnat).trans (hw 1 Nat.one_lt_two)
    have hstate : wordFetched (wordFetched s) = fetched i s := by
      have hpc : s.pc + 1#32 + 1#32 = s.pc + 2#32 := by bv_omega
      simp [fetched, wordFetched, henc, List.range_succ, hpc]
    have hlow : 0 ≤ (wordFetched s).pc.toInt := by rw [wordFetched, hint]; omega
    have hhigh : (wordFetched s).pc.toInt ≤ 1999 := by rw [wordFetched, hint]; omega
    rw [fetchInstr_format_a h (by omega) (hop ▸ hr) hf, fetchWord_word_in hlow hhigh, hoperand, Ran.andThen_done, hb, hstate]

/-! ## From the fetch to the step -/

/-- R106: the reload, with TIMER as a word. -/
theorem reload_eq (s : State) :
    reload s = if s.run = .running ∧ s.timer = 0 then { s with timer := s.interval } else s := by
  have hzero : s.timer.toInt = 0 ↔ s.timer = 0 := BitVec.toInt_inj (y := (0 : Word))
  simp only [reload, hzero]

/-- R105, R106: an instruction fetched is executed, and the reload follows. -/
theorem step_of_fetchInstr_done {s u v : State} {i : Instr} (hr : s.run = .running) (ha : s.firstUnanswered = none)
    (hp : preempt (tick s) = .done () u) (hf : fetchInstr u = .done i v) : step s = execAndReload i v := by
  rw [step_of_answered hr ha, runCycle, hp, Ran.andThen_done, hf]

/-- R100, R201: nothing in the cycle happens after a preemption that raises. -/
theorem runCycle_of_preempt_raised {s t : State} (hp : preempt (tick s) = .raised t) : runCycle s = .next t := by
  rw [runCycle, hp, Ran.andThen_raised]

/-- R60: a cycle that sent nothing is the step, whether the Memory Engine answers or not. -/
theorem step_of_unsent {s t : State} (hr : s.run = .running) (hc : runCycle s = .next t) (ht : t.requests = s.requests) :
    step s = .next t := by
  simp only [step, hr, cycle, hc, blocked_of_unsent ht, Bool.false_eq_true, if_false]

/-- Every instruction answers, so its step is the next state, reloaded. -/
theorem execAndReload_eq (i : Instr) (s : State) : ∃ t, exec i s = .next t ∧ execAndReload i s = .next (reload t) := by
  obtain ⟨t, ht, -⟩ := exec_keepsClock i s
  exact ⟨t, ht, by simp only [execAndReload, ht]⟩

/-- Settles O9: no interrupt due, the fetch at PC is `fetchInstr_encode`, and the rest of the cycle is `execAndReload`. -/
theorem stepRunsDecodedInstruction : Obligations.StepRunsDecodedInstruction := by
  intro s i hr ha hdue hlow hfit hw
  obtain ⟨t, ht, hreload⟩ := execAndReload_eq i (fetched i { s with timer := s.timer - 1 })
  rw [step_of_fetchInstr_done hr ha (preempt_tick_of_not_due s hdue) (fetchInstr_encode hlow hfit hw), hreload, reload_eq]
  simp only [fetched] at ht
  rw [ht]

/-- R85: no instruction is longer than two words. -/
theorem length_encode_le (i : Instr) : (encode i).length ≤ 2 := by
  rw [encode]
  cases i.operand? <;> simp

/-- Settles O10: with room for the frame the cycle goes on at 1000, where the fetch is `fetchInstr_encode`; otherwise the preemption
raised, in the second push, or in the first, which sends nothing. -/
theorem stepTakesTimerInterrupt : Obligations.StepTakesTimerInterrupt := by
  intro s hr hdue
  refine ⟨fun i ha hlow hhigh hw => ?_, fun ha hone => ?_, fun hout => ?_⟩
  · have hlength := length_encode_le i
    have hvector : (1000 : Word).toInt = 1000 := by decide
    obtain ⟨t, ht, hreload⟩ := execAndReload_eq i (fetched i { s with
      timer := 0, mode := .system, ssp := s.ssp - 2, mem := withFrame s, pc := 1000,
      requests := s.requests ++ frameRequests s })
    rw [step_of_fetchInstr_done hr ha (preempt_tick_of_due_in s hdue hlow hhigh)
      (fetchInstr_encode timerVector_inMemory.1 (by simp only [hvector]; omega) hw), hreload, reload_eq]
    simp only [fetched] at ht
    rw [ht]
  · rw [step_of_answered hr ha]
    refine runCycle_of_preempt_raised ?_
    rw [preempt_tick_of_due s hdue]
    exact trapEntry_second_push_out 1000 { s with timer := 0 } hone
  · refine step_of_unsent hr (runCycle_of_preempt_raised ?_) rfl
    rw [preempt_tick_of_due s hdue]
    exact trapEntry_first_push_out 1000 { s with timer := 0 } hout

/-- R104, R206: an opcode fetch outside memory raises. -/
theorem fetchInstr_out {s : State} (h : s.pc.toInt < 0 ∨ 1999 < s.pc.toInt) :
    fetchInstr s = .raised (raise .addressRange s.pc.toInt s) := by
  rw [fetchInstr, fetchWord_out s (by omega), Ran.andThen_raised]

/-- R104, R206: so does the operand fetch of a two-word instruction at 1999, after the one fetch. -/
theorem fetchInstr_operand_out {i : Instr} {v : Word} {s : State} (hpc : s.pc = 1999)
    (henc : encode i = [Memory.read s.mem 1999, v]) :
    fetchInstr s = .raised (raise .addressRange 2000 (wordFetched s)) := by
  obtain ⟨r, hr, ⟨-, ho, -⟩ | ⟨hf, -, -, -⟩⟩ := encoding_row i
  · simp [encode, ho] at henc
  · have hop : Memory.read s.mem s.pc.toNat = i.opcodeWord := by
      rw [hpc]
      exact (List.cons_eq_cons.1 henc).1.symm
    have hnext : (wordFetched s).pc = 2000 := by rw [wordFetched, hpc]; rfl
    have hint : (2000 : Word).toInt = 2000 := by decide
    rw [fetchInstr_format_a (by rw [hpc]; decide) (by rw [hpc]; decide) (hop ▸ hr) hf,
      fetchWord_out _ (by rw [hnext, hint]; omega), Ran.andThen_raised, hnext, hint]

/-- Settles O11: the opcode fetch raises before it sends anything (`fetchInstr_out`), the operand fetch after one READ
(`fetchInstr_operand_out`). -/
theorem fetchOutsideMemoryFaults : Obligations.FetchOutsideMemoryFaults := by
  intro s hr hdue
  refine ⟨fun hout => ?_, fun i v ha hpc henc => ?_⟩
  · have hfetch := fetchInstr_out (s := { s with timer := s.timer - 1 }) hout
    refine step_of_unsent hr ?_ rfl
    rw [runCycle, preempt_tick_of_not_due s hdue, Ran.andThen_done, hfetch]
    rfl
  · have hfetch := fetchInstr_operand_out (s := { s with timer := s.timer - 1 }) hpc henc
    rw [step_of_fetchInstr_raised hr ha (preempt_tick_of_not_due s hdue) hfetch, wordFetched, hpc]
    rfl

end Sys2Proof.Machine
end


section
/-! Which instruction a cycle ran: what END, INT and IRET alone do (R27, R193, R230, R248). -/

namespace Sys2Proof.Machine

open Sys2Proof.Safety

/-- R85, R105: the word at PC is the opcode word of the instruction fetched; the fetch leaves all but PC and the request trace. -/
theorem fetchInstr_opcodeWord {s t : State} {i : Instr} (h : fetchInstr s = .done i t) :
    0 ≤ s.pc.toInt ∧ s.pc.toInt ≤ 1999 ∧ Memory.read s.mem s.pc.toNat = i.opcodeWord ∧
      ∃ p rs, t = { s with pc := p, requests := rs } := by
  obtain ⟨h0, h1, r, hr, ⟨-, rfl, rfl⟩ | ⟨-, -, -, rfl, rfl⟩⟩ := fetchInstr_done h
  · exact ⟨h0, h1, (opcodeWord_build hr _).symm, _, _, rfl⟩
  · exact ⟨h0, h1, (opcodeWord_build hr _).symm, _, _, rfl⟩

/-- R86: END is fetched by one READ, of the word 50. -/
theorem fetchInstr_endRun {s t : State} (h : fetchInstr s = .done .endRun t) :
    0 ≤ s.pc.toInt ∧ s.pc.toInt ≤ 1999 ∧ Memory.read s.mem s.pc.toNat = 50 ∧ t = wordFetched s := by
  obtain ⟨h0, h1, hop, -⟩ := fetchInstr_opcodeWord h
  have hrow : lookupOpcode (Memory.read s.mem s.pc.toNat) = some (rowN 50 .endRun) := by rw [hop]; rfl
  rw [fetchInstr_format_n h0 h1 hrow rfl] at h
  cases h
  exact ⟨h0, h1, hop, rfl⟩

/-- The preemption check leaves the unit running, or raises. -/
theorem preempt_run {s u : State} (h : preempt s = .done () u) : u.run = s.run ∧ u.exitStatus = s.exitStatus := by
  obtain ⟨rs, -, hw⟩ := preempt_works s
  rw [h] at hw
  exact ⟨hw.run, hw.exitStatus⟩

/-- R248: a cycle that ends the run, or leaves it in HALTING, fetched END and halted. -/
theorem step_running_end {s t : State} (hr : s.run = .running) (h : step s = .next t)
    (ht : t.run = .exited ∨ t.run = .halting) :
    ∃ u v, preempt (tick s) = .done () u ∧ fetchInstr u = .done .endRun v ∧ t = halt v := by
  have hfaulted : t.run ≠ .faulted := by obtain ht | ht := ht <;> simp [ht]
  have hrunning : t.run ≠ .running := by obtain ht | ht := ht <;> simp [ht]
  obtain ⟨-, e | ⟨u, e, hu⟩⟩ := step_running hr h
  · obtain ⟨rs, -, hw⟩ := preempt_works (tick s)
    rw [e] at hw
    obtain ⟨c, n, v, -, rfl, -⟩ := hw
    exact absurd rfl hfaulted
  · obtain e' | ⟨i, v, w, e', ew, rfl⟩ := hu
    · obtain ⟨rs, c, n, v, -, -, rfl, -⟩ := fetchInstr_raised_worked e'
      exact absurd rfl hfaulted
    · by_cases hi : i = .endRun
      · subst hi
        cases ew
        exact ⟨u, v, e, e', reload_halt v⟩
      · obtain ⟨-, -, -, p, rs, rfl⟩ := fetchInstr_opcodeWord e'
        rw [reload_run] at hfaulted hrunning
        obtain ⟨hw, -⟩ | ⟨hw, -⟩ := exec_status hi ew
        · exact absurd (hw.trans ((preempt_run e).1.trans hr)) hrunning
        · exact absurd hw hfaulted

/-- R224: the preemption check of an interrupt due that is done had room for the frame. -/
theorem preempt_tick_of_due_done {s u : State} (hdue : InterruptDue s) (h : preempt (tick s) = .done () u) :
    2 ≤ s.ssp.toInt ∧ s.ssp.toInt ≤ 2000 := by
  rw [preempt_tick_of_due s hdue] at h
  obtain ⟨hlow, hhigh, -⟩ := trapEntry_done h
  exact ⟨hlow, hhigh⟩

/-- R194: what END has sent with its fetch. -/
theorem halt_wordFetched_requests (u : State) :
    (halt (wordFetched u)).requests = u.requests ++ [⟨.read, u.pc, 0⟩, ⟨.terminate, 0, 0⟩] := by
  rw [halt_requests, wordFetched, List.append_assoc]
  rfl

/-- R194, R65: success where the run has ended; nothing is written in HALTING. -/
theorem halt_exitStatus (s : State) :
    ((halt s).run = .exited → (halt s).exitStatus = some .success) ∧
      ((halt s).run = .halting → (halt s).exitStatus = s.exitStatus) := by
  obtain ⟨-, e⟩ | ⟨-, e⟩ := halt_cases s <;> simp [e]

/-- Settles O8: the cycle fetched END (`step_running_end`) where the preemption check left PC, which `fetchInstr_endRun` says is at the
word 50, by one READ; TERMINATE follows. -/
theorem onlyEndExits : Obligations.OnlyEndExits := by
  intro s t hr h ht
  obtain ⟨u, v, hp, hf, rfl⟩ := step_running_end hr h ht
  obtain ⟨h0, h1, hword, rfl⟩ := fetchInstr_endRun hf
  have hrequests := halt_wordFetched_requests u
  obtain ⟨hexited, hhalting⟩ := halt_exitStatus (wordFetched u)
  refine ⟨fun hdue => ?_, fun hdue => ?_, hexited, fun hrun => (hhalting hrun).trans (preempt_run hp).2⟩
  · rw [preempt_tick_of_not_due s hdue] at hp
    cases hp
    exact ⟨h0, h1, hword, hrequests⟩
  · obtain ⟨hlow, hhigh⟩ := preempt_tick_of_due_done hdue hp
    rw [preempt_tick_of_due_in s hdue hlow hhigh] at hp
    cases hp
    exact ⟨hlow, hhigh, hword, hrequests⟩

/-- R193, R230: an instruction that leaves user mode is INT, one that leaves system mode is IRET. -/
theorem exec_mode_change {i : Instr} {s t : State} (h : exec i s = .next t) :
    (s.mode = .user → t.mode = .system → i = .int) ∧ (s.mode = .system → t.mode = .user → i = .iret) := by
  by_cases hint : i = .int
  · subst hint
    refine ⟨fun _ _ => rfl, fun hs ht => ?_⟩
    rw [exec_int_system s hs] at h
    cases h
    simp [hs] at ht
  · by_cases hiret : i = .iret
    · subst hiret
      refine ⟨fun hs ht => ?_, fun _ _ => rfl⟩
      rw [exec_iret_user s hs] at h
      cases h
      simp [hs] at ht
    · have hmode := exec_mode hint hiret h
      exact ⟨fun hs ht => by simp [hmode, hs] at ht, fun hs ht => by simp [hmode, hs] at ht⟩

@[simp] theorem reload_mode (s : State) : (reload s).mode = s.mode := by unfold reload; split <;> rfl

/-- A cycle that takes no interrupt and changes MODE executed the instruction whose word is at PC. -/
theorem step_running_mode {s t : State} (hr : s.run = .running) (hdue : ¬InterruptDue s) (h : step s = .next t)
    (hmode : t.mode ≠ s.mode) :
    ∃ i v w, 0 ≤ s.pc.toInt ∧ s.pc.toInt ≤ 1999 ∧ Memory.read s.mem s.pc.toNat = i.opcodeWord ∧
      exec i v = .next w ∧ v.mode = s.mode ∧ w.mode = t.mode := by
  obtain ⟨-, e | ⟨u, e, hu⟩⟩ := step_running hr h
  · simp [preempt_tick_of_not_due s hdue] at e
  · rw [preempt_tick_of_not_due s hdue] at e
    cases e
    obtain e' | ⟨i, v, w, e', ew, rfl⟩ := hu
    · obtain ⟨-, rfl⟩ | ⟨-, -, c, n, -, rfl⟩ := fetchInstr_raised e' <;> exact absurd rfl hmode
    · obtain ⟨h0, h1, hop, p, rs, rfl⟩ := fetchInstr_opcodeWord e'
      exact ⟨i, _, w, h0, h1, hop, ew, rfl, (reload_mode w).symm⟩

/-- Settles O16: with no interrupt due MODE is changed by the instruction at PC (`step_running_mode`), which `exec_mode_change` names. -/
theorem modeChanges : Obligations.ModeChanges := by
  intro s t hr h
  refine ⟨fun hs ht => or_iff_not_imp_left.2 fun htimer => ?_, fun hs ht => ?_⟩
  · obtain ⟨i, v, w, h0, h1, hop, ew, hv, hw⟩ :=
      step_running_mode hr (fun hdue => htimer hdue.1) h (by simp [hs, ht])
    obtain rfl : i = .int := (exec_mode_change ew).1 (hv.trans hs) (hw.trans ht)
    exact ⟨h0, h1, hop⟩
  · obtain ⟨i, v, w, h0, h1, hop, ew, hv, hw⟩ :=
      step_running_mode hr (fun hdue => by simp [InterruptDue, hs] at hdue) h (by simp [hs, ht])
    obtain rfl : i = .iret := (exec_mode_change ew).2 (hv.trans hs) (hw.trans ht)
    exact ⟨h0, h1, hop⟩

end Sys2Proof.Machine
end

section
/-! What a body does not look at: TIMER, the lapse but for whether the Memory Engine exits, and in system mode USP (R28, R65, R221). -/

namespace Sys2Proof.Machine

open Sys2Proof.Safety

/-- The state with TIMER, USP and the lapse replaced by functions of what they hold. -/
def altered (g h : Word → Word) (l : Lapse → Lapse) (s : State) : State :=
  { s with timer := g s.timer, usp := h s.usp, lapse := l s.lapse }

/-- The same answer, with its state replaced. -/
def Ran.mapState {α : Type} (f : State → State) (r : Ran α) : Ran α :=
  match r with
  | .done v t => .done v (f t)
  | .raised t => .raised (f t)

@[simp] theorem Ran.mapState_done {α : Type} (f : State → State) (v : α) (t : State) :
    (Ran.done v t).mapState f = .done v (f t) := rfl

@[simp] theorem Ran.mapState_raised {α : Type} (f : State → State) (t : State) :
    (Ran.raised t : Ran α).mapState f = .raised (f t) := rfl

/-- A sequence whose statements cannot tell the states apart cannot either. -/
theorem Ran.mapState_andThen {α β : Type} {f : State → State} {r : Ran α} {k : α → State → Ran β}
    (hk : ∀ v t, k v (f t) = (k v t).mapState f) : (r.mapState f).andThen k = (r.andThen k).mapState f := by
  cases r with
  | done v t => exact hk v t
  | raised t => rfl

theorem Ran.leaves_mapState {f : State → State} {r : Ran Unit} {t : State} (h : r.leaves = .next t) :
    (r.mapState f).leaves = .next (f t) := by
  cases r <;> cases h <;> rfl

/-- A body whose parts cannot tell the states apart leaves the replaced state. -/
theorem Ran.leaves_andThen_mapState {α : Type} {f : State → State} {r r' : Ran α} {k : α → State → Ran Unit} {t : State}
    (hr : r' = r.mapState f) (hk : ∀ v t, k v (f t) = (k v t).mapState f) (ht : (r.andThen k).leaves = .next t) :
    (r'.andThen k).leaves = .next (f t) := by
  rw [hr, Ran.mapState_andThen hk]
  exact Ran.leaves_mapState ht

section
variable (g h : Word → Word) (l : Lapse → Lapse)

/-! ## Operations that do not look at SP -/

theorem memRead_altered (a : Int) (s : State) :
    memRead a (altered g h l s) = (memRead a s).mapState (altered g h l) := by
  unfold memRead
  split <;> rfl

theorem memWrite_altered (a : Int) (v : Word) (s : State) :
    memWrite a v (altered g h l s) = (memWrite a v s).mapState (altered g h l) := by
  unfold memWrite
  split <;> rfl

theorem fetchWord_altered (s : State) : fetchWord (altered g h l s) = (fetchWord s).mapState (altered g h l) := by
  rw [fetchWord, fetchWord, ← Ran.mapState_andThen fun _ _ => rfl]
  exact congrArg (Ran.andThen · _) (memRead_altered g h l s.pc.toInt s)

theorem fetchInstr_altered (s : State) : fetchInstr (altered g h l s) = (fetchInstr s).mapState (altered g h l) := by
  rw [fetchInstr, fetchWord_altered]
  refine Ran.mapState_andThen fun ir t => ?_
  split
  · rfl
  · split
    · rfl
    · rw [fetchWord_altered]
      exact Ran.mapState_andThen fun _ _ => rfl

/-! ## Operations on the active stack -/

/-- USP is not replaced, or is not the active stack pointer. -/
def UspUnseen (s : State) : Prop := h = id ∨ s.mode = .system

variable {h} {s : State}

theorem sp_altered (hu : UspUnseen h s) : (altered g h l s).sp = s.sp := by
  obtain rfl | hm := hu
  · rfl
  · exact (sp_system (altered g h l s) hm).trans (sp_system s hm).symm

theorem setSp_altered (hu : UspUnseen h s) (v : Word) : (altered g h l s).setSp v = altered g h l (s.setSp v) := by
  obtain rfl | hm := hu
  · cases hm : s.mode with
    | user => rw [setSp_user s v hm, setSp_user (altered g id l s) v hm]; rfl
    | system => rw [setSp_system s v hm, setSp_system (altered g id l s) v hm]; rfl
  · rw [setSp_system s v hm, setSp_system (altered g h l s) v hm]
    rfl

theorem pushWord_altered (hu : UspUnseen h s) (v : Word) :
    pushWord v (altered g h l s) = (pushWord v s).mapState (altered g h l) := by
  rw [pushWord, pushWord, sp_altered g l hu, setSp_altered g l hu]
  split
  · exact memWrite_altered g h l _ v _
  · rfl

theorem popWord_altered (hu : UspUnseen h s) : popWord (altered g h l s) = (popWord s).mapState (altered g h l) := by
  rw [popWord, popWord, sp_altered g l hu, memRead_altered]
  unfold memRead
  split
  · have hsent : UspUnseen h (send (.read s.sp.toInt) s) := hu
    simp only [Ran.mapState_done, Ran.andThen_done, sp_altered g l hsent, setSp_altered g l hsent]
  · rfl

theorem readStack_altered (hu : UspUnseen h s) : readStack (altered g h l s) = (readStack s).mapState (altered g h l) := by
  have haddr : stackAddr (altered g h l s) = stackAddr s := by
    rw [stackAddr, sp_altered g l hu]
    rfl
  rw [readStack, readStack, haddr]
  split
  · rfl
  · exact memRead_altered g h l _ s

theorem checkMemAccess_altered (hu : UspUnseen h s) (a : Word) :
    checkMemAccess a (altered g h l s) = altered g h l (checkMemAccess a s) := by
  rw [checkMemAccess_eq, checkMemAccess_eq, sp_altered g l hu]
  rfl

/-! ## Traps: USP is stored and loaded -/

theorem trapEntry_altered (v : Word) (s : State) :
    trapEntry v (altered g id l s) = (trapEntry v s).mapState (altered g id l) := by
  have hfirst := pushWord_altered g l (h := id) (s := { s with mode := .system }) (.inl rfl) s.pc
  refine (congrArg (Ran.andThen · _) hfirst).trans (Ran.mapState_andThen fun _ t => ?_)
  have hsecond := pushWord_altered g l (h := id) (s := t) (.inl rfl) t.usp
  exact (congrArg (Ran.andThen · _) hsecond).trans (Ran.mapState_andThen fun _ _ => rfl)

theorem trapReturn_altered (s : State) :
    trapReturn (altered g id l s) = (trapReturn s).mapState (altered g id l) := by
  have hfirst := popWord_altered g l (h := id) (s := s) (.inl rfl)
  refine (congrArg (Ran.andThen · _) hfirst).trans (Ran.mapState_andThen fun u t => ?_)
  have hsecond := popWord_altered g l (h := id) (s := { t with usp := u }) (.inl rfl)
  exact (congrArg (Ran.andThen · _) hsecond).trans (Ran.mapState_andThen fun _ _ => rfl)

/-! ## The instructions -/

theorem halt_altered (hl : ∀ x, (l x).exits = x.exits) (s : State) :
    halt (altered g h l s) = altered g h l (halt s) := by
  cases hs : s.lapse.exits with
  | true => rw [halt_exits s hs, halt_exits (altered g h l s) ((hl _).trans hs)]; rfl
  | false => rw [halt_stays s hs, halt_stays (altered g h l s) ((hl _).trans hs)]; rfl

/-- R28, R65, R221: an instruction cannot tell the states apart, IRET aside where USP is replaced. -/
theorem exec_altered {i : Instr} {t : State} (hl : ∀ x, (l x).exits = x.exits)
    (hu : h = id ∨ (s.mode = .system ∧ i ≠ .iret)) (ht : exec i s = .next t) :
    exec i (altered g h l s) = .next (altered g h l t) := by
  have hsp : UspUnseen h s := hu.imp_right And.left
  cases i with
  | loadValue | get | addX | addY | subX | subY | copyToX | copyFromX | copyToY | copyFromY | jump | incX | decX =>
    cases ht
    rfl
  | copyToSp =>
    cases ht
    exact congrArg Host.Outcome.next (setSp_altered g l hsp s.ac)
  | copyFromSp =>
    cases ht
    rw [exec_copyFromSp, sp_altered g l hsp]
    rfl
  | jumpIfZero a =>
    rw [exec_jumpIfZero] at ht ⊢
    split at ht <;> rename_i hac <;> cases ht
    · exact if_pos hac
    · exact if_neg hac
  | jumpIfNonzero a =>
    rw [exec_jumpIfNonzero] at ht ⊢
    split at ht <;> rename_i hac <;> cases ht
    · exact if_pos hac
    · exact if_neg hac
  | put p =>
    rw [exec_put] at ht ⊢
    cases ht
    split
    · rfl
    · split <;> rfl
  | endRun =>
    cases ht
    exact congrArg Host.Outcome.next (halt_altered g l hl s)
  | loadAddr a =>
    refine Ran.leaves_andThen_mapState ?_ (fun _ _ => rfl) ht
    rw [checkMemAccess_altered g l hsp]
    exact memRead_altered g h l _ _
  | loadindAddr a =>
    refine Ran.leaves_andThen_mapState ?_ (fun _ _ => rfl) ht
    rw [readIndirect, readDirect, memRead_altered]
    exact Ran.mapState_andThen fun p t => memRead_altered g h l _ t
  | loadidxX | loadidxY => exact Ran.leaves_andThen_mapState (memRead_altered g h l _ s) (fun _ _ => rfl) ht
  | loadSpx => exact Ran.leaves_andThen_mapState (readStack_altered g l hsp) (fun _ _ => rfl) ht
  | storeAddr a =>
    rw [exec_storeAddr] at ht ⊢
    rw [memWrite_altered]
    exact Ran.leaves_mapState ht
  | call a => exact Ran.leaves_andThen_mapState (pushWord_altered g l hsp s.pc) (fun _ _ => rfl) ht
  | ret | pop => exact Ran.leaves_andThen_mapState (popWord_altered g l hsp) (fun _ _ => rfl) ht
  | push =>
    rw [exec_push] at ht ⊢
    refine (congrArg Ran.leaves (pushWord_altered g l hsp s.ac)).trans ?_
    exact Ran.leaves_mapState ht
  | int =>
    cases hm : s.mode with
    | system =>
      rw [exec_int_system s hm] at ht
      cases ht
      exact exec_int_system (altered g h l s) hm
    | user =>
      obtain rfl : h = id := hu.resolve_right fun hs => by simp [hm] at hs
      rw [exec_int_user s hm] at ht
      rw [exec_int_user (altered g id l s) hm, trapEntry_altered]
      exact Ran.leaves_mapState ht
  | iret =>
    obtain rfl : h = id := hu.resolve_right fun hs => hs.2 rfl
    cases hm : s.mode with
    | user =>
      rw [exec_iret_user s hm] at ht
      cases ht
      exact exec_iret_user (altered g id l s) hm
    | system =>
      rw [exec_iret_system s hm] at ht
      rw [exec_iret_system (altered g id l s) hm, trapReturn_altered]
      exact Ran.leaves_mapState ht

end

/-! ## The statements -/

/-- Settles O51: in system mode no row but IRET's writes USP, and replacing it is `exec_altered`. -/
theorem userPointerUnusedInSystemMode : Obligations.UserPointerUnusedInSystemMode := by
  intro i s t u hm hi h
  refine ⟨registerFrame i s t .usp h ?_, exec_altered id id (h := fun _ => u) (fun _ => rfl) (.inr ⟨hm, hi⟩) h⟩
  rw [hm]
  cases i <;> simp_all [writtenRegs, activeReg]

end Sys2Proof.Machine
end


section
/-! What a cycle does not look at: TIMER in system mode, and the lapse but for whether it answers and exits (R65, R110, R221). -/

namespace Sys2Proof.Machine

open Sys2Proof.Safety

/-! ## A cycle from where the preemption check leaves it -/

/-- R100: what is left of a cycle after the preemption check raised, or after the fetch. -/
theorem runCycle_of_preempt_done {s u : State} (hp : preempt (tick s) = .done () u) :
    (∃ t, fetchInstr u = .raised t ∧ runCycle s = .next t) ∨
      ∃ i v w, fetchInstr u = .done i v ∧ exec i v = .next w ∧ runCycle s = .next (reload w) := by
  cases hf : fetchInstr u with
  | raised t => exact .inl ⟨t, rfl, by rw [runCycle, hp, Ran.andThen_done, hf]⟩
  | done i v =>
    obtain ⟨w, hx, hreload⟩ := execAndReload_eq i v
    refine .inr ⟨i, v, w, rfl, hx, ?_⟩
    rw [runCycle, hp, Ran.andThen_done, hf]
    exact hreload

/-- Two cycles that the preemption check leaves in states that differ in TIMER and the lapse fetch and execute alike. -/
theorem runCycle_altered {g : Word → Word} {l : Lapse → Lapse} {s s' u : State} (hl : ∀ x, (l x).exits = x.exits)
    (hp : preempt (tick s) = .done () u) (hp' : preempt (tick s') = .done () (altered g id l u)) :
    ∃ w, (runCycle s = .next w ∧ runCycle s' = .next (altered g id l w)) ∨
      (runCycle s = .next (reload w) ∧ runCycle s' = .next (reload (altered g id l w))) := by
  have hfetch := fetchInstr_altered g id l u
  obtain ⟨t, hf, hc⟩ | ⟨i, v, w, hf, hx, hc⟩ := runCycle_of_preempt_done hp
  · rw [hf] at hfetch
    refine ⟨t, .inl ⟨hc, ?_⟩⟩
    obtain ⟨t', hf', hc'⟩ | ⟨i, v, w, hf', -, -⟩ := runCycle_of_preempt_done hp'
    · obtain rfl : altered g id l t = t' := by simpa [hf'] using hfetch.symm
      exact hc'
    · simp [hf'] at hfetch
  · rw [hf] at hfetch
    refine ⟨w, .inr ⟨hc, ?_⟩⟩
    obtain ⟨t', hf', -⟩ | ⟨i', v', w', hf', hx', hc'⟩ := runCycle_of_preempt_done hp'
    · simp [hf'] at hfetch
    · obtain ⟨rfl, rfl⟩ : i' = i ∧ v' = altered g id l v := by simpa [hf'] using hfetch
      have hx'' := exec_altered g l hl (.inl rfl) hx
      obtain rfl : altered g id l w = w' := by simpa [hx'] using hx''.symm
      exact hc'

/-- R100: every cycle answers but for the wait on the Memory Engine. -/
theorem runCycle_answers (s : State) : ∃ t, runCycle s = .next t := by
  cases hp : preempt (tick s) with
  | raised t => exact ⟨t, runCycle_of_preempt_raised hp⟩
  | done v u =>
    obtain ⟨t, -, hc⟩ | ⟨i, v, w, -, -, hc⟩ := runCycle_of_preempt_done hp
    · exact ⟨t, hc⟩
    · exact ⟨_, hc⟩

/-! ## TIMER in system mode -/

/-- R65: a step of a running unit that answers is its cycle, which is not stuck. -/
theorem step_running_eq_next {s t : State} (hr : s.run = .running) :
    step s = .next t ↔ runCycle s = .next t ∧ blocked s t = false := by
  obtain ⟨t', ht'⟩ := runCycle_answers s
  simp only [step, hr, cycle, ht']
  constructor
  · intro h
    split at h
    · cases h
    · cases h
      exact ⟨rfl, Bool.eq_false_iff.2 ‹_›⟩
  · rintro ⟨h, hb⟩
    cases h
    rw [hb]
    rfl

/-- R102, R221: in system mode the preemption check does nothing. -/
theorem preempt_system {s : State} (hm : s.mode = .system) : preempt s = .done () s := by
  rw [preempt_eq, if_neg (by simp [hm])]

theorem reload_with_timer (s : State) (w : Word) : { reload s with timer := w } = { s with timer := w } := by
  unfold reload
  split <;> rfl

/-- R65: being stuck is a matter of the Memory Engine and of what was sent. -/
theorem blocked_congr {s s' t t' : State} (hs : s'.firstUnanswered = s.firstUnanswered) (hreq : s'.requests = s.requests)
    (ht : t'.requests = t.requests) : blocked s' t' = blocked s t := by
  rw [blocked, blocked, hs, hreq, ht]

/-- Settles O15: in system mode the preemption check passes whatever TIMER holds (`preempt_system`), what follows does not look at TIMER
(`runCycle_altered`), and the reload writes TIMER alone. -/
theorem expiryInSystemModeIsLost : Obligations.ExpiryInSystemModeIsLost := by
  intro s a t hr hm h
  obtain ⟨hc, hb⟩ := (step_running_eq_next hr).1 h
  obtain ⟨w, hw⟩ := runCycle_altered (g := fun _ => wrap (a.toInt - 1)) (l := id) (s' := { s with timer := a })
    (fun _ => rfl) (preempt_system (s := tick s) hm) (preempt_system (s := tick { s with timer := a }) hm)
  have hu : ∃ u, runCycle { s with timer := a } = .next u ∧ { u with timer := 0 } = { t with timer := 0 } := by
    rw [hc] at hw
    obtain ⟨ht, hu⟩ | ⟨ht, hu⟩ := hw <;> cases ht
    · exact ⟨_, hu, rfl⟩
    · exact ⟨_, hu, by rw [reload_with_timer, reload_with_timer]; rfl⟩
  obtain ⟨u, hcu, heq⟩ := hu
  have hrequests := congrArg State.requests heq
  have hbu : blocked { s with timer := a } u = false := (blocked_congr rfl rfl hrequests).trans hb
  exact ⟨u, (step_running_eq_next (s := { s with timer := a }) hr).2 ⟨hcu, hbu⟩, heq⟩

/-! ## The lapse -/

/-- The lapse of a Memory Engine that answers `n` requests, in place of any lapse that exits. -/
def answering (n : Nat) (x : Lapse) : Lapse := if x.exits then .neverAnswers n else x

theorem exits_answering (n : Nat) (x : Lapse) : (answering n x).exits = x.exits := by
  unfold answering
  split <;> simp_all

theorem reload_altered (l : Lapse → Lapse) (s : State) :
    reload (altered id id l s) = altered id id l (reload s) := by
  by_cases hz : s.run = .running ∧ s.timer.toInt = 0
  · rw [reload, reload, if_pos hz]
    exact if_pos hz
  · rw [reload, reload, if_neg hz]
    exact if_neg hz

theorem preempt_altered (l : Lapse → Lapse) (s : State) :
    preempt (altered id id l s) = (preempt s).mapState (altered id id l) := by
  rw [preempt_eq, preempt_eq, apply_ite (Ran.mapState (altered id id l)), ← trapEntry_altered]
  rfl

/-- R65: a cycle does not look at the lapse, but for whether the Memory Engine exits. -/
theorem runCycle_lapse {l : Lapse → Lapse} {s t : State} (hl : ∀ x, (l x).exits = x.exits) (h : runCycle s = .next t) :
    runCycle (altered id id l s) = .next (altered id id l t) := by
  have hp' : preempt (tick (altered id id l s)) = _ := preempt_altered l (tick s)
  cases hp : preempt (tick s) with
  | raised u =>
    rw [hp] at hp'
    obtain rfl : u = t := by simpa [runCycle_of_preempt_raised hp] using h
    exact runCycle_of_preempt_raised hp'
  | done v u =>
    rw [hp] at hp'
    obtain ⟨w, ⟨hc, hc'⟩ | ⟨hc, hc'⟩⟩ := runCycle_altered hl hp hp'
    · obtain rfl : w = t := by simpa [hc] using h
      exact hc'
    · obtain rfl : reload w = t := by simpa [hc] using h
      rw [hc', reload_altered]

/-- R65, R110: a running unit is stuck where its cycle sent a request that is not answered. -/
theorem step_of_blocked {s t : State} (hr : s.run = .running) (hc : runCycle s = .next t) (hb : blocked s t = true) :
    step s = .fault .memoryNeverAnswers := by
  simp only [step, hr, cycle, hc, hb, if_true]

/-- Settles O60: with every request answered nothing stops the cycle; with `n` answered the cycle is the same but for the lapse
(`runCycle_lapse`), and is stuck exactly where it sent one from `n` on (`blocked_iff`). -/
theorem unansweredRequestIsStuck : Obligations.UnansweredRequestIsStuck := by
  intro s
  refine ⟨fun hr hl => by simp [step, hr, awaitHalt, hl], fun n hr heng => ?_⟩
  obtain ⟨t, hc⟩ := runCycle_answers { s with lapse := .none }
  have hanswered : State.firstUnanswered { s with lapse := .none } = none := by simp [State.firstUnanswered, heng]
  have hunanswered : State.firstUnanswered { s with lapse := .neverAnswers n } = some n := by
    simp [State.firstUnanswered, heng]
  have hstep : step { s with lapse := .none } = .next t := (step_of_answered (s := { s with lapse := .none }) hr hanswered).trans hc
  have hlapse : t.lapse = .none := step_lapse hstep
  have hcn : runCycle { s with lapse := .neverAnswers n } = .next { t with lapse := .neverAnswers n } := by
    have hcn := runCycle_lapse (exits_answering n) hc
    rw [altered, altered, hlapse] at hcn
    exact hcn
  have hsent : blocked { s with lapse := .neverAnswers n } { t with lapse := .neverAnswers n } = true ↔ SentFrom n s t :=
    blocked_iff hunanswered
  refine ⟨t, hstep, fun h => ?_, fun h => ?_⟩
  · exact step_of_blocked (s := { s with lapse := .neverAnswers n }) hr hcn (hsent.2 h)
  · have hb := Bool.eq_false_iff.2 (mt hsent.1 h)
    exact (step_running_eq_next (s := { s with lapse := .neverAnswers n }) hr).2 ⟨hcn, hb⟩

end Sys2Proof.Machine
end

section
/-! How the host side of the console port shows an event (R144). -/

namespace Sys2Proof.Machine

open Sys2Proof.Safety

/-- The ASCII code of a decimal digit. -/
theorem toNat_digit (n : Nat) : (BitVec.ofNat 8 (48 + n % 10)).toNat = 48 + n % 10 := by
  rw [BitVec.toNat_ofNat]
  omega

/-- The digits of a number with enough fuel: those before the last, if any, and the last. -/
theorem decDigits_succ (fuel n : Nat) :
    decDigits (fuel + 1) n = (if n < 10 then [] else decDigits fuel (n / 10)) ++ [BitVec.ofNat 8 (48 + n % 10)] := rfl

theorem decDigits_ne_nil (fuel n : Nat) : decDigits (fuel + 1) n ≠ [] := by
  simp [decDigits_succ]

/-- Each is an ASCII digit. -/
theorem decDigits_range (fuel n : Nat) : ∀ d ∈ decDigits fuel n, 48 ≤ d.toNat ∧ d.toNat ≤ 57 := by
  induction fuel generalizing n with
  | zero => simp [decDigits]
  | succ fuel ih =>
    have hlast := toNat_digit n
    rw [decDigits_succ, List.forall_mem_append]
    refine ⟨?_, by simp only [List.forall_mem_singleton, hlast]; omega⟩
    split
    · simp
    · exact ih _

theorem decValue_append_singleton (ds : List Byte) (d : Byte) :
    decValue (ds ++ [d]) = 10 * decValue ds + (d.toNat - 48) := by
  simp [decValue]

/-- They stand for the number, where the fuel suffices. -/
theorem decValue_decDigits (fuel n : Nat) (h : n < 10 ^ fuel) : decValue (decDigits fuel n) = n := by
  induction fuel generalizing n with
  | zero =>
    obtain rfl : n = 0 := by simpa using h
    rfl
  | succ fuel ih =>
    rw [decDigits_succ, decValue_append_singleton, toNat_digit]
    split
    case isTrue hsmall =>
      have hnil : decValue [] = 0 := rfl
      omega
    case isFalse hlarge =>
      rw [ih (n / 10) (by rw [Nat.pow_succ] at h; omega)]
      omega

/-- No leading zero but for 0 itself. -/
theorem decDigits_head (fuel n : Nat) (h : n < 10 ^ fuel) (hhead : (decDigits fuel n).head? = some 48) :
    decDigits fuel n = [48] := by
  induction fuel generalizing n with
  | zero => simp [decDigits] at hhead
  | succ fuel ih =>
    rw [decDigits_succ] at hhead ⊢
    split at hhead
    case isTrue hsmall => simpa [hsmall] using hhead
    case isFalse hlarge =>
      have hrest : n / 10 < 10 ^ fuel := by rw [Nat.pow_succ] at h; omega
      cases fuel with
      | zero => omega
      | succ fuel =>
        rw [List.head?_append_of_ne_nil _ (decDigits_ne_nil fuel _)] at hhead
        have hzero : decValue [48] = n / 10 := ih (n / 10) hrest hhead ▸ decValue_decDigits _ _ hrest
        have hvalue : decValue [48] = 0 := rfl
        omega

/-- The absolute value of a word has at most ten digits. -/
theorem natAbs_toInt_lt (v : Word) : v.toInt.natAbs < 10 ^ 10 := by
  have hv := toInt_range v
  omega

/-- D17: the byte of a character event is the value modulo 256. -/
theorem toNat_ofInt_emod (v : Int) : ((BitVec.ofInt 8 (v % 256)).toNat : Int) = v % 256 := by
  rw [BitVec.toNat_ofInt]
  omega

/-- Settles O59: the numeral is a sign and the digits of the absolute value, which has at most ten; the byte is `toNat_ofInt_emod`; the
diagnostic's text holds the numeral of the address. -/
theorem consoleRendering : Obligations.ConsoleRendering := by
  intro v
  have hfuel := natAbs_toInt_lt v
  refine ⟨⟨decDigits 10 v.toInt.natAbs, rfl, decDigits_ne_nil 9 _, decDigits_range 10 _, decValue_decDigits 10 _ hfuel,
    decDigits_head 10 _ hfuel⟩, ⟨_, rfl, toNat_ofInt_emod v.toInt⟩, _, _, rfl⟩

end Sys2Proof.Machine
end
